-- ==== Sys2Proof/Word.lean ====
section
/-! DEFINITION. The word types of the station bus and the shape of a sparse table. -/

namespace Sys2Proof

/-- A word of the station bus (spec 00, Numbers and names; R24). -/
abbrev Word := BitVec 32

/-- A value of the 32-bit time counter (R40). -/
abbrev Time := BitVec 32

/-- The 2-bit master code SMC (R24). -/
abbrev Master := BitVec 2

/-- The four byte enables of an access (R24). The spec names no order of the lanes; that enable n selects bits 8n to 8n+7 is the
model's choice (log 31). -/
abbrev Enables := BitVec 4

/-- A table of the part: (id, entry) pairs. Canonical form: ids strictly rising, no entry equal to the table's
device-reset entry, which is what an unlisted id reads as. -/
abbrev Table (α : Type) := List (Nat × α)

end Sys2Proof
end

