-- ==== Sys2Proof/Syntax.lean ====
section
/-! DEFINITION. The commands of the part: one constructor per row of spec/opcode_table.json, with the operands that the
spec's words give the access or event (log 27). -/

namespace Sys2Proof

/-- One single-word access on the station bus (R24). `data` is what the master drives; a read drives nothing and carries 0. -/
structure Access where
  write : Bool
  addr : Nat
  enables : Enables
  data : Word
  master : Master
  deriving DecidableEq, Repr

/-- A word of a record window (R26, R192): the slot and the word in it. Sample and position slots hold two words, image slots
four, the control slot eight. -/
inductive RecordWord where
  | image (slot : BitVec 12) (word : BitVec 2)
  | sample (slot : BitVec 10) (word : BitVec 1)
  | position (slot : BitVec 11) (word : BitVec 1)
  | control (word : BitVec 3)
  deriving DecidableEq, Repr

/-- A full write of word 7 of the control slot (R177, R193): bits 16 to 31 carry the software sequence, bits 8 to 15 no field,
and bits 0 to 7 the kind, which the command's own name gives. -/
structure ControlWrite where
  sequence : BitVec 16
  spare : BitVec 8
  master : Master
  deriving DecidableEq, Repr

/-- The commands. Every bus command acts by the access it spells and by the state (log 2): the name says which step the
table makes of that access where the state calls for it. -/
inductive Instr where
  /-- RESET_N_ASSERT (R41). -/
  | resetNAssert
  /-- RESET_N_RELEASE (R41), with the levels of the strap pins at the release (R25). -/
  | resetNRelease (anch : BitVec 8) (linkid : BitVec 2)
  /-- TIME_COUNTER_ADVANCE (R40). -/
  | timeCounterAdvance
  /-- PASSED_ACCESS (R24): any access of the station bus. -/
  | passedAccess (a : Access)
  /-- NON_FINAL_WORD_WRITE (R29): a full write of a record word. -/
  | nonFinalWordWrite (place : RecordWord) (data : Word) (master : Master)
  /-- PARTIAL_WRITE (R32): a write of a record word with fewer than four enables. -/
  | partialWrite (place : RecordWord) (data : Word) (enables : Enables) (master : Master)
  /-- INCOMPLETE_RECORD (R30): a final-word write. -/
  | incompleteRecord (place : RecordWord) (data : Word) (master : Master)
  /-- IMAGE_RECORD (R10): the final-word write of an image slot. -/
  | imageRecord (slot : BitVec 12) (word3 : Word) (master : Master)
  /-- SAMPLE_RECORD (R44): the final-word write of a sample slot. -/
  | sampleRecord (slot : BitVec 10) (word1 : Word) (master : Master)
  /-- POSITION_REPORT (R141): the final-word write of a position slot. -/
  | positionReport (slot : BitVec 11) (word1 : Word) (master : Master)
  /-- COMMAND_READ (R38). -/
  | commandRead (valve : BitVec 11) (word : BitVec 2) (enables : Enables) (master : Master)
  /-- COMMAND_WRITE (R34). -/
  | commandWrite (valve : BitVec 11) (word : BitVec 2) (data : Word) (enables : Enables) (master : Master)
  /-- LOST_LATCH_READ (R50): a read of latch word k. -/
  | lostLatchRead (k : BitVec 5) (enables : Enables) (master : Master)
  /-- CONTROL_UNKNOWN_KIND (R177): the final-word write of a control record, whole. -/
  | controlUnknownKind (word7 : Word) (master : Master)
  /-- ADOPT_TOPOLOGY (R15). -/
  | adoptTopology (w : ControlWrite)
  /-- ADOPT_SENSORS (R15). -/
  | adoptSensors (w : ControlWrite)
  /-- REOPEN_IMAGE (R22). -/
  | reopenImage (w : ControlWrite)
  /-- ISOLATE_NODE (R86). -/
  | isolateNode (w : ControlWrite)
  /-- CONFIRM (R90). -/
  | confirm (w : ControlWrite)
  /-- RELEASE (R98). -/
  | release (w : ControlWrite)
  /-- RETRACT (R138). -/
  | retract (w : ControlWrite)
  /-- TEST_VALVE (R169). -/
  | testValve (w : ControlWrite)
  /-- VALVE_SERVICE_OUT (R175); the direction stands in word 1 of the control buffer. -/
  | valveServiceOut (w : ControlWrite)
  /-- VALVE_SERVICE_IN (R176); the direction stands in word 1 of the control buffer. -/
  | valveServiceIn (w : ControlWrite)
  /-- SET_DEMAND (R78). -/
  | setDemand (w : ControlWrite)
  /-- REBASELINE (R61). -/
  | rebaseline (w : ControlWrite)
  /-- SET_CAUSE (R182). -/
  | setCause (w : ControlWrite)
  /-- ACK_CAUSES (R184). -/
  | ackCauses (w : ControlWrite)
  /-- SENSOR_LOSS_EXPIRY (R49). -/
  | sensorLossExpiry (sensor : BitVec 10)
  /-- SENSOR_PERSISTENCE_EXPIRY (R55). -/
  | sensorPersistenceExpiry (sensor : BitVec 10)
  /-- CELL_PERSISTENCE_EXPIRY (R67). -/
  | cellPersistenceExpiry (cell : BitVec 6)
  /-- HOLD_EXPIRY (R91). -/
  | holdExpiry (incident : BitVec 3)
  /-- PICKUP_TIMER_EXPIRY (R155). -/
  | pickupTimerExpiry (valve : BitVec 11)
  /-- PROGRESS_TIMER_EXPIRY (R157). -/
  | progressTimerExpiry (valve : BitVec 11)
  /-- DEADLINE_EXPIRY (R156). -/
  | deadlineExpiry (valve : BitVec 11)
  /-- BOUNDARY_JOB_COMPLETION (R113): the running job completes. -/
  | boundaryJobCompletion
  /-- SUPPLY_JOB_COMPLETION (R121). -/
  | supplyJobCompletion
  /-- ABANDONED_JOB_COMPLETION (R107). -/
  | abandonedJobCompletion
  /-- TOPOLOGY_VALIDATION_COMPLETION (R17). -/
  | topologyValidationCompletion
  /-- SENSOR_VALIDATION_COMPLETION (R19). -/
  | sensorValidationCompletion
  /-- CROSS_CHECK_COMPLETION (R20). -/
  | crossCheckCompletion
  deriving DecidableEq, Repr

end Sys2Proof
end

