-- ==== Sys2Proof/Decode.lean ====
section
/-! DEFINITION. The command a word spells by the table's bits. No row of spec/opcode_table.json gives bits, so no word spells
one. -/

namespace Sys2Proof

/-- The command that the table's bits give: none of its rows has any. -/
def decodeTableWord (nbits w : Nat) : Option Instr :=
  match nbits, w with
  | _, _ => none

end Sys2Proof
end

