-- ==== Sys2Proof/Config.lean ====
section
/-! DEFINITION. The capacities and fixed numbers of the part. -/

namespace Sys2Proof.Config

/-- Sizes of the tables (R2 to R6, R79). -/
def nodeCount : Nat := 4096
def pipeCount : Nat := 8192
def valveCount : Nat := 2048
def sensorCount : Nat := 1024
def cellCount : Nat := 64
def incidentCount : Nat := 8

/-- Edges per node (R2, R17). -/
def maxEdges : Nat := 8
/-- SOURCE and protected nodes (R17). -/
def maxSources : Nat := 32
def maxProtected : Nat := 128
/-- Meter-list entries per cell (R7). -/
def maxMeters : Nat := 12
/-- The outermost level of a frame (R80). -/
def maxDepth : Nat := 3
/-- Boundary valves and cause valves per frame (R80). -/
def maxBoundary : Nat := 16
def maxFrameCauses : Nat := 4
/-- Pending causes and listed origins per incident (R79). -/
def maxPending : Nat := 8
def maxOrigins : Nat := 4
/-- Nodes and pipes an incident may own by a walk (R112). -/
def maxRegion : Nat := 512
/-- Stroke slots, and large valves in them (R150). -/
def maxSlots : Nat := 12
def maxLarge : Nat := 3
/-- The least diameter class of a large valve (R150). -/
def largeClass : Nat := 6
/-- Entries of the refusal list (R37). -/
def maxRefusals : Nat := 8
/-- Listed nodes of a cut list (R79). -/
def maxCutList : Nat := 4
/-- Where a saturating count stops. -/
def countLimit : Nat := 65535
/-- Where the evidence score stops (R71). -/
def scoreLimit : Nat := 31

/-- Bounds on the rounds of a cascade of notices within one event; the argument that they are enough is log 23. -/
def valveRounds : Nat := 8192
def sensorRounds : Nat := 2048

end Sys2Proof.Config
end

