-- ==== Sys2Proof/Machine/State.lean ====
section
/-! DEFINITION. The state of the part as plain data, and its device-reset values. Each block's record carries its device-reset
values as the defaults of its fields, so that `{}` is the entry at device reset (R23, R43, R63, R79, R144, R168, R190). -/

namespace Sys2Proof.Machine

/-! ### The network image (chapter 1) -/

/-- Entry tag (R1). -/
inductive Tag where
  | empty | staged | adopted
  deriving DecidableEq, Repr

/-- Node kind (R2). -/
inductive NodeKind where
  | junction | source
  deriving DecidableEq, Repr

/-- Kind of an edge of an adjacency list (R2). -/
inductive EdgeKind where
  | pipe | valve
  deriving DecidableEq, Repr

/-- An edge of an adjacency list: kind, pipe or valve id, far node (R2). -/
structure Edge where
  kind : EdgeKind
  id : Nat
  far : Nat
  deriving DecidableEq, Repr

/-- An owner field that is not empty: incident and level (R82). -/
structure Owner where
  incident : Nat
  level : Nat
  deriving DecidableEq, Repr

/-- A node entry (R2, R82). -/
structure Node where
  tag : Tag := .empty
  kind : NodeKind := .junction
  guarded : Bool := false
  edges : List Edge := []
  owner : Option Owner := none
  deriving DecidableEq, Repr

/-- A pipe entry (R3, R82). -/
structure Pipe where
  tag : Tag := .empty
  endA : Nat := 0
  endB : Nat := 0
  owner : Option Owner := none
  deriving DecidableEq, Repr

/-! ### Valves (chapters 1, 8 and 9) -/

/-- Normal state of a valve (R4). -/
inductive NormalState where
  | opened | closed
  deriving DecidableEq, Repr

/-- Motion (R143). -/
inductive Motion where
  | rest | waiting | issued | travel | fault
  deriving DecidableEq, Repr

/-- Purpose of a stroke, and purpose code of an image (R143, R146). -/
inductive Purpose where
  | none | close | openUp | testOut | testBack
  deriving DecidableEq, Repr

/-- Control (R143). -/
inductive Control where
  | free | controlled | handbackPending
  deriving DecidableEq, Repr

/-- Health (R143, R176). -/
inductive Health where
  | untested | good | seized | outOfService
  deriving DecidableEq, Repr

/-- Fault reason of a valve (R143). -/
inductive FaultReason where
  | none | noPickup | stalled | overtime | reverse | torque | breach
  deriving DecidableEq, Repr

/-- Source of a command image (R146). -/
inductive Source where
  | hold | close | openUp | test
  deriving DecidableEq, Repr

/-- Phase: the zone whose rate the stroke image carries (R143, R153). -/
inductive Phase where
  | coarse | fine
  deriving DecidableEq, Repr

/-- A command image (R146). -/
structure Image where
  target : Nat
  rate : Nat
  purpose : Purpose
  sequence : BitVec 16
  source : Source
  awaiting : Bool
  deriving DecidableEq, Repr

/-- A stored position report (R142). -/
structure Report where
  position : Nat
  limitOpen : Bool
  limitClosed : Bool
  torque : Bool
  sequence : BitVec 16
  time : Time
  deriving DecidableEq, Repr

/-- Result of a valve test (R168). -/
inductive TestResult where
  | none | good | seized | link | aborted
  deriving DecidableEq, Repr

/-- Cause of a test's abort (R168). -/
inductive AbortCause where
  | none | processorWrite | holderGained | closeRequest | serviceOut
  deriving DecidableEq, Repr

/-- The test record of a valve (R168). -/
structure TestRecord where
  depth : Nat := 0
  home : Nat := 0
  result : TestResult := .none
  leg : Purpose := .none
  fault : FaultReason := .none
  abort : AbortCause := .none
  time : Time := 0
  deriving DecidableEq, Repr

/-- A valve entry: the fields of the VALVE record (R4), the holder set (R83, ascending, no repeats), the runtime record (R143)
and the test record (R168). Whether the valve holds a stroke slot is kept in the list of slots (R150). -/
structure Valve where
  tag : Tag := .empty
  endA : Nat := 0
  endB : Nat := 0
  diameter : Nat := 0
  normal : NormalState := .opened
  strokeTime : Nat := 0
  crossover : Nat := 0
  divisor : Nat := 0
  holders : List Nat := []
  motion : Motion := .rest
  purpose : Purpose := .none
  control : Control := .free
  health : Health := .untested
  fault : FaultReason := .none
  image : Option Image := none
  imageSeq : BitVec 16 := 0
  phase : Phase := .coarse
  pickup : Option Time := none
  progress : Option Time := none
  deadline : Option Time := none
  reference : Nat := 0
  best : Nat := 0
  seated : Bool := false
  releaseOwner : Option Nat := none
  report : Option Report := none
  repeats : Nat := 0
  test : TestRecord := {}
  deriving DecidableEq, Repr

/-! ### Sensors (chapters 1 and 3) -/

/-- Sensor kind (R5). -/
inductive SensorKind where
  | pressure | flow
  deriving DecidableEq, Repr

/-- Sample format (R5). -/
inductive Format where
  | binary | decimal
  deriving DecidableEq, Repr

/-- Sensor state (R42). -/
inductive SensorState where
  | unconfigured | learning | normal | excursion | tripped | lost
  deriving DecidableEq, Repr

/-- A sensor entry: the fields of the SENSOR record (R5), the runtime record (R42), and `shown`, whether the sensor's last notice
showed it TRIPPED and not masked (R58, R71). A timer is stopped (`none`) or runs to an expiry time. -/
structure Sensor where
  tag : Tag := .empty
  kind : SensorKind := .pressure
  format : Format := .binary
  site : Nat := 0
  cell : Nat := 0
  threshold : Nat := 0
  persistence : Nat := 0
  lossTimeout : Nat := 0
  shift : Nat := 0
  learningCount : Nat := 0
  state : SensorState := .unconfigured
  baseline : Int := 0
  seeded : Bool := false
  remaining : Nat := 0
  loss : Option Time := none
  persist : Option Time := none
  lastSequence : Option (BitVec 16) := none
  lastGood : Option Int := none
  lastDeviation : Int := 0
  latch : Bool := false
  good : Nat := 0
  doubtful : Nat := 0
  bad : Nat := 0
  badDigit : Nat := 0
  repeats : Nat := 0
  shown : Bool := false
  deriving DecidableEq, Repr

/-! ### Cells (chapters 1 and 4) -/

/-- Policy of a cell and of an incident (R6, R79). -/
inductive Policy where
  | auto | confirm
  deriving DecidableEq, Repr

/-- A meter-list entry: sensor, and whether its positive flow leaves the cell (orientation −1) (R7). -/
structure Meter where
  sensor : Nat
  outward : Bool
  deriving DecidableEq, Repr

/-- Cell state (R62). -/
inductive CellState where
  | idle | quiet | watch | tripped | suspended
  deriving DecidableEq, Repr

/-- Outcome of a Locator run (R74). -/
inductive LocationOutcome where
  | opened | absorbed | noIncident
  deriving DecidableEq, Repr

/-- The last location of a cell (R74). -/
structure Location where
  outcome : LocationOutcome
  time : Time
  origin : Nat
  winner : Option Nat
  ratio : Nat
  zeroBaseline : Nat
  ratioRange : Nat
  incident : Option Nat
  deriving DecidableEq, Repr

/-- A cell entry: the fields of the CELL record (R6), the meter list (R7) and the runtime record (R62). -/
structure Cell where
  tag : Tag := .empty
  threshold : Nat := 0
  persistence : Nat := 0
  required : Nat := 0
  policy : Policy := .auto
  holdExpiry : Nat := 0
  centre : Nat := 0
  demand : Int := 0
  meters : List Meter := []
  state : CellState := .idle
  known : Bool := false
  imbalance : Int := 0
  persist : Option Time := none
  score : Nat := 0
  absorbed : Nat := 0
  location : Option Location := none
  deriving DecidableEq, Repr

/-! ### Global parameters, adoption -/

/-- The eight global parameters (R8). -/
structure Params where
  closedTolerance : Nat := 0
  openTolerance : Nat := 0
  progressStep : Nat := 0
  progressWindow : Nat := 0
  pickupTimeout : Nat := 0
  reverseTolerance : Nat := 0
  breachMargin : Nat := 0
  deadlineMargin : Nat := 0
  deriving DecidableEq, Repr

/-- The GLOBAL entry (R8). -/
structure Globals where
  tag : Tag := .empty
  params : Params := {}
  deriving DecidableEq, Repr

/-- Job marker of a half or of an incident (R9, R79). -/
inductive Marker where
  | none | queued | running
  deriving DecidableEq, Repr

/-- Outcome of an adoption job (R16). -/
inductive AdoptionOutcome where
  | none | passed | failed
  deriving DecidableEq, Repr

/-- Reason of a failed adoption job (R17, R19, R20). -/
inductive AdoptionReason where
  | none | endMissing | selfLoop | degree | noSource | sourceCount | protectedCount | meterMissing | meterNotFlow
  | centreRange | siteMissing | centreMissing | cellMissing
  deriving DecidableEq, Repr

/-- Table named by an adoption result (R16). -/
inductive AdoptionTable where
  | none | node | pipe | valve | sensor | cell
  deriving DecidableEq, Repr

/-- An adoption result record (R16). R23 gives its outcome NONE at device reset; that the reason and the table are then NONE, both ids
absent and the time 0 is the model's choice (log 38). -/
structure AdoptionResult where
  outcome : AdoptionOutcome := .none
  reason : AdoptionReason := .none
  table : AdoptionTable := .none
  id : Option Nat := none
  second : Option Nat := none
  time : Time := 0
  deriving DecidableEq, Repr

/-- Image state (R21). -/
inductive ImageState where
  | loading | partially | live
  deriving DecidableEq, Repr

/-! ### Incidents (chapter 5) -/

/-- Incident state (R79). -/
inductive IncidentState where
  | free | searching | checking | held | closing | isolated | failed | releasing
  deriving DecidableEq, Repr

/-- Hold reason (R79). -/
inductive HoldReason where
  | none | supplyCut | policy
  deriving DecidableEq, Repr

/-- Fail reason (R79, R96). -/
inductive FailReason where
  | none | depth | boundaryFull | regionLimit | sourceInside | causeOverflow
  deriving DecidableEq, Repr

/-- A listed origin: node, cell (`none` is MANUAL), time (R79). -/
structure Origin where
  node : Nat
  cell : Option Nat
  time : Time
  deriving DecidableEq, Repr

/-- A boundary-list entry with its failed flag (R80). -/
structure Boundary where
  valve : Nat
  failed : Bool
  deriving DecidableEq, Repr

/-- A frame record (R80). -/
structure Frame where
  level : Nat
  causes : List Nat
  seeds : List Nat
  boundary : List Boundary
  regionNodes : Nat
  regionPipes : Nat
  checked : Bool
  deriving DecidableEq, Repr

/-- A release tally (R79, R99). -/
structure Tally where
  opened : Nat := 0
  faulted : Nat := 0
  reclaimed : Nat := 0
  deriving DecidableEq, Repr

/-- A location note (R77, R79). The device-reset value of the ratio, which R79 does not list, is the model's (log 33). -/
structure LocationNote where
  winner : Option Nat := none
  ratio : Nat := 0
  skips : Nat := 0
  deriving DecidableEq, Repr

/-- An incident record (R79). The device-reset values of the policy and of the hold expiry, which R79 does not list, are the
model's (log 20, 33). -/
structure Incident where
  state : IncidentState := .free
  origins : List Origin := []
  unlisted : Nat := 0
  policy : Policy := .auto
  holdExpiry : Nat := 0
  holdTimer : Option Time := none
  generation : BitVec 16 := 0
  depth : Nat := 0
  frames : List Frame := []
  pendingCauses : List Nat := []
  holdReason : HoldReason := .none
  cutList : List Nat := []
  cutCount : Nat := 0
  failReason : FailReason := .none
  marker : Marker := .none
  reopen : Nat := 0
  tally : Tally := {}
  mergedInto : Option Nat := none
  note : LocationNote := {}
  timeOpened : Time := 0
  timeIsolated : Option Time := none
  deriving DecidableEq, Repr

/-! ### The Graph Engine (chapter 6) -/

/-- A job: kind and arguments (R103). -/
inductive Job where
  | boundary (incident level : Nat)
  | supply (incident : Nat) (generation : BitVec 16)
  | adoptTopology
  | adoptSensors
  | crossCheck
  deriving DecidableEq, Repr

/-- The running job, and whether a release has abandoned it (R103, R107). -/
structure Running where
  job : Job
  abandoned : Bool
  deriving DecidableEq, Repr

/-! ### The stroke queue (chapter 8) -/

/-- The stroke queue: every CLOSE entry stands before every OPEN entry, and those before every TEST entry (R147). -/
structure StrokeQueue where
  close : List Nat := []
  openUp : List Nat := []
  test : List Nat := []
  deriving DecidableEq, Repr

/-! ### The Report Unit (chapter 10) -/

/-- A cause record (R180). -/
structure CauseRecord where
  flag : Bool := false
  level : Nat := 0
  vector : Nat := 0
  count : Nat := 0
  time : Time := 0
  subject : Word := 0
  detail : Word := 0
  deriving DecidableEq, Repr

/-- The attention word (R183). -/
structure Attention where
  valid : Bool := false
  vector : Nat := 0
  deriving DecidableEq, Repr

/-- Window of a record error (R185). -/
inductive Window where
  | image | sample | position | control
  deriving DecidableEq, Repr

/-- Reason of a record error (R185). -/
inductive RecordReason where
  | partialWrite | incomplete | slotMismatch | fieldRange | badKind | noEntry | duplicate | listFull | adopted | adopting
  deriving DecidableEq, Repr

/-- The last-error fields (R185). -/
structure LastError where
  window : Option Window := none
  reason : Option RecordReason := none
  slot : Option Nat := none
  word : Option Nat := none
  master : Option Master := none
  kind : Option Nat := none
  id : Option Nat := none
  time : Time := 0
  deriving DecidableEq, Repr

/-- Outcome of a control record (R178, R197). -/
inductive ControlOutcome where
  | none | accepted | unknownKind | notLive | badId | badArgument | busyImage | alreadyAdopted | badNode | regionActive
  | noIncident | wrongState | nothingToRetract | causeOpen | busyValve | outOfService | notOpen
  deriving DecidableEq, Repr

/-- The control result (R178). -/
structure ControlResult where
  sequence : BitVec 16 := 0
  kind : BitVec 8 := 0
  outcome : ControlOutcome := .none
  detail : Word := 0
  time : Time := 0
  deriving DecidableEq, Repr

/-! ### Notices within one event (log 23) -/

/-- A valve notice (R145): the valve, and whether it reports the valve's entry into FAULT. -/
structure ValveNotice where
  valve : Nat
  fault : Bool
  deriving DecidableEq, Repr

/-- The notices given and not yet taken within the event in hand: valve notices in the order given (R145), incident notices
(R81), sensor notices ascending (R58). -/
structure Agenda where
  valves : List ValveNotice := []
  incidents : List Nat := []
  sensors : List Nat := []
  deriving DecidableEq, Repr

/-! ### The blocks behind the Bus Interposer -/

/-- Everything that an event can reach by notices from block to block: the tables, the incidents, the Graph Engine, the Stroke
Controller and the Report Unit's causes. -/
structure Net where
  nodes : Table Node := []
  pipes : Table Pipe := []
  valves : Table Valve := []
  sensors : Table Sensor := []
  cells : Table Cell := []
  globals : Globals := {}
  topologyAdopted : Bool := false
  sensorsAdopted : Bool := false
  topologyMarker : Marker := .none
  sensorsMarker : Marker := .none
  live : Bool := false
  topologyResult : AdoptionResult := {}
  sensorsResult : AdoptionResult := {}
  crossResult : AdoptionResult := {}
  dropped : Nat := 0
  incidents : Table Incident := []
  jobs : List Job := []
  walker : Option Running := none
  jobsCompleted : Nat := 0
  jobsStale : Nat := 0
  jobsAbandoned : Nat := 0
  queue : StrokeQueue := {}
  slots : List Nat := []
  passedOver : Nat := 0
  causes : Table CauseRecord := []
  attn : Bool := false
  attention : Attention := {}
  recordErrors : Nat := 0
  lastError : LastError := {}
  agenda : Agenda := {}
  deriving DecidableEq, Repr

/-! ### The Bus Interposer (chapter 2) -/

/-- A word of an assembly latch or buffer with its written-mark (R29). -/
structure Latch where
  word : Word := 0
  mark : Bool := false
  deriving DecidableEq, Repr

/-- A shadow word with its mirrored mark (R35). -/
structure ShadowWord where
  word : Word := 0
  mirrored : Bool := false
  deriving DecidableEq, Repr

/-- An entry of the refusal list (R37). -/
structure Refused where
  valve : Nat
  word : Word
  holders : List Nat
  control : Control
  time : Time
  deriving DecidableEq, Repr

/-- What became of the last access on the station bus (R24, R27): forwarded on the memory-side port unchanged (a read then
returns memory's data), answered with a word of the part, or suppressed (log 1). -/
inductive Port where
  | none
  | passed (a : Access)
  | answered (a : Access) (w : Word)
  | suppressed (a : Access)
  deriving DecidableEq, Repr

/-- The state of the part, with the queue of the commands that wait. The shadow is keyed by 4 × valve + word; the latches of
the sample and position windows by slot; the buffers by word. -/
structure State where
  pending : List Instr := []
  resetAsserted : Bool := false
  anch : BitVec 8 := 0
  linkid : Master := 0
  time : Time := 0
  port : Port := .none
  imageBuffer : Table Latch := []
  imageSlot : Nat := 0
  sampleLatches : Table Latch := []
  positionLatches : Table Latch := []
  controlBuffer : Table Latch := []
  shadow : Table ShadowWord := []
  refusals : List Refused := []
  refusalCount : Nat := 0
  controlResult : ControlResult := {}
  net : Net := {}
  deriving DecidableEq, Repr

/-- Why a command could stop with a fault. No command of the part stops: a wrong record or request is refused by a next state
(R14, R33, R178). No constructor, so nobody raises one; safe. -/
inductive Fault where
  deriving DecidableEq, Repr

/-- Why a command could have no meaning. -/
inductive Refusal where
  /-- Raised by exec for a command whose meaning is not written; no arm raises it now. Safe. -/
  | notModelled (mnemonic : String)
  deriving DecidableEq, Repr

/-- The blocks at device reset (R23, R43, R63, R79, R103, R107, R144, R147, R150, R190). -/
def Net.reset : Net := {}

/-- The part right after the release of RESET_N (R41). The straps are named values, 0 (log 7). -/
def State.reset : State := {}

/-- What a block reads of the others' state and does not change within an event: the time counter (R40) and the command
shadow (R35, read at handback, R164). -/
structure Env where
  time : Time
  shadow : Table ShadowWord
  deriving DecidableEq, Repr

end Sys2Proof.Machine
end

