-- ==== Sys2Proof/Machine/Ops.lean ====
section
/-! DEFINITION. The named operations over tables, counts and timers, and the accessors of every table of the part. -/

namespace Sys2Proof.Machine

/-! ### Sparse tables -/

/-- The entry of an id; an id that is not listed reads as the device-reset entry `d`. -/
def lookup {α : Type} (d : α) : Table α → Nat → α
  | [], _ => d
  | (k', v) :: t, k => if k' = k then v else lookup d t k

/-- The table with the entry of `k` written, kept in ascending order. -/
def put {α : Type} (k : Nat) (v : α) : Table α → Table α
  | [] => [(k, v)]
  | (k', v') :: t => if k < k' then (k, v) :: (k', v') :: t else if k = k' then (k, v) :: t else (k', v') :: put k v t

/-- The table without the entry of `k`. -/
def remove {α : Type} (k : Nat) : Table α → Table α
  | [] => []
  | (k', v') :: t => if k' = k then t else (k', v') :: remove k t

/-- A write of the entry of `k`: writing the device-reset entry leaves nothing listed. -/
def store {α : Type} [DecidableEq α] (d : α) (t : Table α) (k : Nat) (v : α) : Table α :=
  if v = d then remove k t else put k v t

/-- Every entry changed by `f`, which may turn an entry into the device-reset entry. -/
def mapTable {α : Type} [DecidableEq α] (d : α) (f : Nat → α → α) (t : Table α) : Table α :=
  (t.map fun kv => (kv.1, f kv.1 kv.2)).filter fun kv => kv.2 != d

/-- The ids whose entries meet `p`, in the table's order, which is ascending. -/
def idsWhere {α : Type} (p : Nat → α → Bool) (t : Table α) : List Nat :=
  (t.filter fun kv => p kv.1 kv.2).map Prod.fst

/-- The ids rise strictly from `lo` on. -/
def risesFrom {α : Type} : Nat → Table α → Bool
  | _, [] => true
  | lo, (k, _) :: t => decide (lo ≤ k) && risesFrom (k + 1) t

/-- The canonical form of a table: ids strictly rising, no device-reset entry listed. -/
def tableWf {α : Type} [DecidableEq α] (d : α) (t : Table α) : Bool :=
  risesFrom 0 t && t.all fun kv => kv.2 != d

/-! ### Counts, sets, timers -/

/-- One more on a 16-bit count that stops at 65535. -/
def satInc (n : Nat) : Nat := min (n + 1) Config.countLimit

/-- A sum on a 16-bit count that stops at 65535. -/
def satAdd (n m : Nat) : Nat := min (n + m) Config.countLimit

/-- An ascending list without repeats, with `k` in it. -/
def insertAsc (k : Nat) : List Nat → List Nat
  | [] => [k]
  | x :: xs => if k < x then k :: x :: xs else if k = x then x :: xs else x :: insertAsc k xs

/-- An ascending list without repeats, with all of `ks` in it. -/
def insertAll (ks l : List Nat) : List Nat := ks.foldl (fun acc k => insertAsc k acc) l

/-- The expiry time of a timer of duration `d` started at `t` (R40). -/
def startTimer (t : Time) (d : Nat) : Option Time := some (t + BitVec.ofNat 32 d)

/-- A running timer expires at the advance that brings the counter to its expiry time, and so while the counter stands there (R40;
log 4). -/
def timerDue (timer : Option Time) (now : Time) : Bool := timer == some now

/-! ### Tables of the part -/

def Node.atReset : Node := {}
def Pipe.atReset : Pipe := {}
def Valve.atReset : Valve := {}
def Sensor.atReset : Sensor := {}
def Cell.atReset : Cell := {}
def Incident.atReset : Incident := {}
def CauseRecord.atReset : CauseRecord := {}
def Latch.atReset : Latch := {}
def ShadowWord.atReset : ShadowWord := {}

namespace Net

def node (n : Net) (k : Nat) : Node := lookup Node.atReset n.nodes k
def pipe (n : Net) (k : Nat) : Pipe := lookup Pipe.atReset n.pipes k
def valve (n : Net) (k : Nat) : Valve := lookup Valve.atReset n.valves k
def sensor (n : Net) (k : Nat) : Sensor := lookup Sensor.atReset n.sensors k
def cell (n : Net) (k : Nat) : Cell := lookup Cell.atReset n.cells k
def incident (n : Net) (k : Nat) : Incident := lookup Incident.atReset n.incidents k
def cause (n : Net) (k : Nat) : CauseRecord := lookup CauseRecord.atReset n.causes k

def setNode (n : Net) (k : Nat) (v : Node) : Net := { n with nodes := store Node.atReset n.nodes k v }
def setPipe (n : Net) (k : Nat) (v : Pipe) : Net := { n with pipes := store Pipe.atReset n.pipes k v }
def setValve (n : Net) (k : Nat) (v : Valve) : Net := { n with valves := store Valve.atReset n.valves k v }
def setSensor (n : Net) (k : Nat) (v : Sensor) : Net := { n with sensors := store Sensor.atReset n.sensors k v }
def setCell (n : Net) (k : Nat) (v : Cell) : Net := { n with cells := store Cell.atReset n.cells k v }
def setIncident (n : Net) (k : Nat) (v : Incident) : Net := { n with incidents := store Incident.atReset n.incidents k v }
def setCause (n : Net) (k : Nat) (v : CauseRecord) : Net := { n with causes := store CauseRecord.atReset n.causes k v }

end Net

def modNode (k : Nat) (f : Node → Node) (n : Net) : Net := n.setNode k (f (n.node k))
def modPipe (k : Nat) (f : Pipe → Pipe) (n : Net) : Net := n.setPipe k (f (n.pipe k))
def modValve (k : Nat) (f : Valve → Valve) (n : Net) : Net := n.setValve k (f (n.valve k))
def modSensor (k : Nat) (f : Sensor → Sensor) (n : Net) : Net := n.setSensor k (f (n.sensor k))
def modCell (k : Nat) (f : Cell → Cell) (n : Net) : Net := n.setCell k (f (n.cell k))
def modIncident (k : Nat) (f : Incident → Incident) (n : Net) : Net := n.setIncident k (f (n.incident k))

/-- The numbers of the eight incidents, ascending. -/
def incidentIds : List Nat := List.range Config.incidentCount

/-- The frame at a level, changed by `f` (R80). -/
def modFrame (i level : Nat) (f : Frame → Frame) (n : Net) : Net :=
  modIncident i (fun r => { r with frames := r.frames.modify level f }) n

/-- The lowest-numbered FREE incident (R77, R85). -/
def lowestFree (n : Net) : Option Nat := incidentIds.find? fun i => (n.incident i).state = .free

/-- The boundary-list entry of a valve in one of an incident's frames, with whether that frame is checked (R83: the valve
stands in at most one). -/
def Incident.entry (r : Incident) (v : Nat) : Option (Bool × Boundary) :=
  r.frames.findSome? fun f => (f.boundary.find? fun b => b.valve = v).map fun b => (f.checked, b)

/-- A valve stands in the boundary list of one of the incident's frames. -/
def Incident.lists (r : Incident) (v : Nat) : Bool := r.frames.any fun f => f.boundary.any fun b => b.valve = v

/-- The boundary valves of all frames, in frame order and then list order. -/
def Incident.boundary (r : Incident) : List Boundary := r.frames.flatMap Frame.boundary

/-- The nodes and the pipes that an incident owns over all its levels (R80, R112). -/
def Incident.ownedNodes (r : Incident) : Nat := (r.frames.map Frame.regionNodes).sum
def Incident.ownedPipes (r : Incident) : Nat := (r.frames.map Frame.regionPipes).sum

/-- The failed flag of a valve's entry set or cleared wherever the valve stands in the frames. -/
def Incident.withFailed (r : Incident) (v : Nat) (flag : Bool) : Incident :=
  { r with frames := r.frames.map fun f =>
      { f with boundary := f.boundary.map fun b => if b.valve = v then { b with failed := flag } else b } }

/-- As many nodes as a walk or a flood can take from its frontier: those it starts with, and one for each edge listed at a node, for
each node joins the frontier at most once by an edge (R108, R120). -/
def graphRounds (n : Net) (starts : List Nat) : Nat := starts.length + (n.nodes.map fun kv => kv.2.edges.length).sum

/-! ### Global parameters in force (R8) -/

/-- The defaults (R8). -/
def Params.defaults : Params where
  closedTolerance := 10
  openTolerance := 20
  progressStep := 5
  progressWindow := 100
  pickupTimeout := 50
  reverseTolerance := 20
  breachMargin := 30
  deadlineMargin := 150

/-- The values in force: those of the GLOBAL entry while it is ADOPTED, else the defaults (R8). -/
def Net.params (n : Net) : Params := if n.globals.tag = .adopted then n.globals.params else Params.defaults

/-! ### Image state (R21) -/

/-- LOADING while neither flag is set, LIVE from a passed cross-check to the reopening, PARTIAL otherwise (R21). -/
def Net.imageState (n : Net) : ImageState :=
  if n.live then .live else if n.topologyAdopted || n.sensorsAdopted then .partially else .loading

/-! ### Notices (log 23) -/

/-- A valve notice is given for `v` (R145): one for each event, and a fault in the event makes it a report of a fault. A valve
whose holder set is empty gives none. -/
def noteValve (v : Nat) (fault : Bool) (n : Net) : Net :=
  if (n.valve v).holders = [] then n
  else if n.agenda.valves.any (fun a => a.valve = v) then
    { n with agenda := { n.agenda with valves := n.agenda.valves.map fun a =>
        if a.valve = v then { a with fault := a.fault || fault } else a } }
  else { n with agenda := { n.agenda with valves := n.agenda.valves ++ [⟨v, fault⟩] } }

/-- An incident notice is given for `i` (R81): one for each event. -/
def noteIncident (i : Nat) (n : Net) : Net :=
  if i ∈ n.agenda.incidents then n else { n with agenda := { n.agenda with incidents := n.agenda.incidents ++ [i] } }

/-- Sensor notices are given for `ids` (R58), ascending. -/
def noteSensors (ids : List Nat) (n : Net) : Net :=
  { n with agenda := { n.agenda with sensors := insertAll ids n.agenda.sensors } }

/-- The ADOPTED sensors sited at one of the nodes or pipes (R59). -/
def sensorsSited (n : Net) (nodes pipes : List Nat) : List Nat :=
  idsWhere (fun _ s => s.tag = .adopted && (match s.kind with
    | .pressure => decide (s.site ∈ nodes)
    | .flow => decide (s.site ∈ pipes))) n.sensors

/-- A sensor is masked while its site is owned (R59). An EMPTY entry names no site (log 20). -/
def masked (n : Net) (s : Sensor) : Bool :=
  s.tag != .empty && (match s.kind with
    | .pressure => (n.node s.site).owner.isSome
    | .flow => (n.pipe s.site).owner.isSome)

/-! ### Claims (R82) -/

/-- A node is claimed at (i, level): its owner field is set, the frame's region count rises, and the sensors sited there become
masked (R80, R82). -/
def claimNode (i level k : Nat) (n : Net) : Net :=
  noteSensors (sensorsSited n [k] [])
    (modFrame i level (fun f => { f with regionNodes := f.regionNodes + 1 })
      (modNode k (fun x => { x with owner := some ⟨i, level⟩ }) n))

/-- A pipe is claimed at (i, level) (R80, R82). -/
def claimPipe (i level k : Nat) (n : Net) : Net :=
  noteSensors (sensorsSited n [] [k])
    (modFrame i level (fun f => { f with regionPipes := f.regionPipes + 1 })
      (modPipe k (fun x => { x with owner := some ⟨i, level⟩ }) n))

/-- Every owner field that meets `p` is cleared, and the sensors sited there become unmasked (R82). -/
def clearOwners (p : Owner → Bool) (n : Net) : Net :=
  let hit : Option Owner → Bool := fun o => match o with
    | none => false
    | some w => p w
  let nodes := idsWhere (fun _ x => hit x.owner) n.nodes
  let pipes := idsWhere (fun _ x => hit x.owner) n.pipes
  noteSensors (sensorsSited n nodes pipes)
    { n with
      nodes := mapTable Node.atReset (fun _ x => if hit x.owner then { x with owner := none } else x) n.nodes
      pipes := mapTable Pipe.atReset (fun _ x => if hit x.owner then { x with owner := none } else x) n.pipes }

/-- Every node and pipe owned by `i` is re-owned to (j, level) (R116). -/
def reown (i j level : Nat) (n : Net) : Net :=
  let move : Option Owner → Option Owner := fun o => match o with
    | none => none
    | some w => if w.incident = i then some ⟨j, level⟩ else some w
  { n with
    nodes := mapTable Node.atReset (fun _ x => { x with owner := move x.owner }) n.nodes
    pipes := mapTable Pipe.atReset (fun _ x => { x with owner := move x.owner }) n.pipes }

end Sys2Proof.Machine
end

