-- ==== Sys2Proof/WellFormed.lean ====
section
/-! DEFINITION. When a command's operands are those of its row. The types of the operands carry the ranges of the slots and
words (R26); what is left are the checks below. An ill-formed command still spells an access, and the part treats it as that
access (log 2). -/

namespace Sys2Proof

/-- The final word of each record window (R26): word 3, word 1, word 1, word 7. -/
def RecordWord.isFinal : RecordWord → Bool
  | .image _ w => w == 3
  | .sample _ w => w == 1
  | .position _ w => w == 1
  | .control w => w == 7

/-- A control kind assigned to one of the thirteen requests (R179, R197). -/
def kindAssigned (kind : Nat) : Bool := 1 ≤ kind && kind ≤ 13

/-- The operands of a command are those of its row: a non-final word is no final word (R29), a partial write has fewer than
four enables (R32), an incomplete record's write is of a final word (R30), an unknown kind is unassigned (R177). -/
def Instr.wellFormed : Instr → Bool
  | .nonFinalWordWrite p _ _ => !p.isFinal
  | .partialWrite _ _ be _ => be != 0xF#4
  | .incompleteRecord p _ _ => p.isFinal
  | .controlUnknownKind w _ => !kindAssigned (w.toNat % 256)
  | _ => true

end Sys2Proof
end

