-- ==== Sys2Proof/Machine/Operands.lean ====
section
/-! DEFINITION. Operand forms: bit fields, the places of the aperture (R26, R192), the layouts of the records that masters write
(R193), and the codes of named values (R197). -/

namespace Sys2Proof.Machine

/-! ### Bit fields (R191) -/

/-- The unsigned field of `width` bits from bit `lo` of a word (R191). -/
def field (w : Word) (lo width : Nat) : Nat := (w.toNat >>> lo) % 2 ^ width

/-- One bit of a word. -/
def flagBit (w : Word) (k : Nat) : Bool := w.getLsbD k

/-- The low 16 bits in two's complement (R47, R193). -/
def signed16 (w : Word) : Int := (BitVec.ofNat 16 w.toNat).toInt

/-- A word read in two's complement (R193: CELL demand, SET_DEMAND value). -/
def signed32 (w : Word) : Int := w.toInt

/-- A field value in two's complement on `width` bits (R191). -/
def twos (width : Nat) (v : Int) : Nat := (v % 2 ^ width).toNat

/-- Fields (width, value) packed from bit 0 on, each reduced to its width (R191, page layouts). -/
def packFrom : Nat → List (Nat × Nat) → Nat
  | _, [] => 0
  | lo, (width, v) :: fs => (v % 2 ^ width) <<< lo + packFrom (lo + width) fs

/-- A page word whose fields follow one another from bit 0 (R191). -/
def pack (fs : List (Nat × Nat)) : Word := BitVec.ofNat 32 (packFrom 0 fs)

/-- An id in a field of 16 bits; absent reads 0xFFFF (R191). -/
def idField (v : Option Nat) : Nat := v.getD 0xFFFF

/-- Byte enables as a mask of 32 bits (R24); enable n selects bits 8n to 8n+7, the model's choice (log 31). -/
def enableMask (be : Enables) : Word :=
  BitVec.ofNat 32 (packFrom 0 ((List.range 4).map fun k => (8, if be.getLsbD k then 255 else 0)))

/-- The enabled bytes of `new` over the others of `old` (R35). -/
def mergeBytes (be : Enables) (old new : Word) : Word := (old &&& ~~~(enableMask be)) ||| (new &&& enableMask be)

/-- All four byte enables (R29). -/
def allEnables : Enables := 0xF#4

/-! ### The aperture (R25, R26, R192) -/

/-- Where an access falls: a word of a record window, a word of a command slot, an offset of the report window, or none. -/
inductive Place where
  | record (r : RecordWord)
  | command (valve word : Nat)
  | report (offset : Nat)
  | outside
  deriving DecidableEq, Repr

/-- The aperture base, ANCH × 1 MiB (R25). -/
def apertureBase (anch : BitVec 8) : Nat := anch.toNat * 2 ^ 20

/-- The window, slot and word of a word-aligned offset in the aperture (R192). -/
def placeOfOffset (off : Nat) : Place :=
  if off < 0x10000 then .record (.image (BitVec.ofNat 12 (off / 16)) (BitVec.ofNat 2 (off / 4)))
  else if off < 0x12000 then .record (.sample (BitVec.ofNat 10 ((off - 0x10000) / 8)) (BitVec.ofNat 1 (off / 4)))
  else if off < 0x16000 then .record (.position (BitVec.ofNat 11 ((off - 0x12000) / 8)) (BitVec.ofNat 1 (off / 4)))
  else if off < 0x1E000 then .command ((off - 0x16000) / 16) (off / 4 % 4)
  else if off < 0x1E020 then .record (.control (BitVec.ofNat 3 (off / 4)))
  else if off < 0x20000 then .outside
  else if off < 0x40000 then .report off
  else .outside

/-- The place of a byte address: its two lowest bits are ignored (R24), addresses outside the aperture are never decoded (R25). -/
def placeOf (anch : BitVec 8) (addr : Nat) : Place :=
  let base := apertureBase anch
  if base ≤ addr ∧ addr < base + 2 ^ 20 then placeOfOffset ((addr - base) / 4 * 4) else .outside

/-- The offset in the aperture of a record word (R192). -/
def recordOffset : RecordWord → Nat
  | .image slot w => 16 * slot.toNat + 4 * w.toNat
  | .sample slot w => 0x10000 + 8 * slot.toNat + 4 * w.toNat
  | .position slot w => 0x12000 + 8 * slot.toNat + 4 * w.toNat
  | .control w => 0x1E000 + 4 * w.toNat

/-- The offset in the aperture of a command slot's word (R192). -/
def commandOffset (valve word : Nat) : Nat := 0x16000 + 16 * valve + 4 * word

/-- The offset in the aperture of a lost-latch word (R196). -/
def latchOffset (k : Nat) : Nat := 0x20300 + 4 * k

/-- A full write at an offset of the aperture. -/
def fullWrite (anch : BitVec 8) (offset : Nat) (data : Word) (master : Master) : Access :=
  ⟨true, apertureBase anch + offset, allEnables, data, master⟩

/-- Word 7 of a control record of a kind (R193). -/
def controlWord7 (w : ControlWrite) (kind : BitVec 8) : Word := w.sequence ++ w.spare ++ kind

/-! ### Codes (R197) -/

def Tag.code : Tag → Nat
  | .empty => 0 | .staged => 1 | .adopted => 2
def ImageState.code : ImageState → Nat
  | .loading => 0 | .partially => 1 | .live => 2
def IncidentState.code : IncidentState → Nat
  | .free => 0 | .searching => 1 | .checking => 2 | .held => 3 | .closing => 4 | .isolated => 5 | .failed => 6
  | .releasing => 7
def SensorState.code : SensorState → Nat
  | .unconfigured => 0 | .learning => 1 | .normal => 2 | .excursion => 3 | .tripped => 4 | .lost => 5
def CellState.code : CellState → Nat
  | .idle => 0 | .quiet => 1 | .watch => 2 | .tripped => 3 | .suspended => 4
def Motion.code : Motion → Nat
  | .rest => 0 | .waiting => 1 | .issued => 2 | .travel => 3 | .fault => 4
def Purpose.code : Purpose → Nat
  | .none => 0 | .close => 1 | .openUp => 2 | .testOut => 3 | .testBack => 4
def Source.code : Source → Nat
  | .hold => 0 | .close => 1 | .openUp => 2 | .test => 3
def Control.code : Control → Nat
  | .free => 0 | .controlled => 1 | .handbackPending => 2
def Health.code : Health → Nat
  | .untested => 0 | .good => 1 | .seized => 2 | .outOfService => 3
def FaultReason.code : FaultReason → Nat
  | .none => 0 | .noPickup => 1 | .stalled => 2 | .overtime => 3 | .reverse => 4 | .torque => 5 | .breach => 6
def AbortCause.code : AbortCause → Nat
  | .none => 0 | .processorWrite => 1 | .holderGained => 2 | .closeRequest => 3 | .serviceOut => 4
def SensorKind.code : SensorKind → Nat
  | .pressure => 0 | .flow => 1
def Format.code : Format → Nat
  | .binary => 0 | .decimal => 1
def NormalState.code : NormalState → Nat
  | .opened => 0 | .closed => 1
def Policy.code : Policy → Nat
  | .auto => 0 | .confirm => 1
/-- Phase is a single bit whose codes R197 does not list; device reset is COARSE and reads 0 (R144, R194; log 20). -/
def Phase.code : Phase → Nat
  | .coarse => 0 | .fine => 1
def HoldReason.code : HoldReason → Nat
  | .none => 0 | .supplyCut => 1 | .policy => 2
def Marker.code : Marker → Nat
  | .none => 0 | .queued => 1 | .running => 2
def FailReason.code : FailReason → Nat
  | .none => 0 | .depth => 1 | .boundaryFull => 2 | .regionLimit => 3 | .sourceInside => 4 | .causeOverflow => 5
def Job.code : Job → Nat
  | .boundary _ _ => 1 | .supply _ _ => 2 | .adoptTopology => 3 | .adoptSensors => 4 | .crossCheck => 5
def LocationOutcome.code : LocationOutcome → Nat
  | .opened => 1 | .absorbed => 2 | .noIncident => 3
def ControlOutcome.code : ControlOutcome → Nat
  | .none => 0 | .accepted => 1 | .unknownKind => 2 | .notLive => 3 | .badId => 4 | .badArgument => 5 | .busyImage => 6
  | .alreadyAdopted => 7 | .badNode => 8 | .regionActive => 9 | .noIncident => 10 | .wrongState => 11
  | .nothingToRetract => 12 | .causeOpen => 13 | .busyValve => 14 | .outOfService => 15 | .notOpen => 16
def Window.code : Window → Nat
  | .image => 0 | .sample => 1 | .position => 2 | .control => 3
def RecordReason.code : RecordReason → Nat
  | .partialWrite => 1 | .incomplete => 2 | .slotMismatch => 3 | .fieldRange => 4 | .badKind => 5 | .noEntry => 6
  | .duplicate => 7 | .listFull => 8 | .adopted => 9 | .adopting => 10
def AdoptionOutcome.code : AdoptionOutcome → Nat
  | .none => 0 | .passed => 1 | .failed => 2
def AdoptionTable.code : AdoptionTable → Nat
  | .none => 0 | .node => 1 | .pipe => 2 | .valve => 3 | .sensor => 4 | .cell => 5
def AdoptionReason.code : AdoptionReason → Nat
  | .none => 0 | .endMissing => 1 | .selfLoop => 2 | .degree => 3 | .noSource => 4 | .sourceCount => 5
  | .protectedCount => 6 | .meterMissing => 7 | .meterNotFlow => 8 | .centreRange => 9 | .siteMissing => 10
  | .centreMissing => 11 | .cellMissing => 12

/-- The test ending of section 11.5: the result combined with the leg reached (R196). -/
def testEnding (result : TestResult) (leg : Purpose) : Nat :=
  let back := if leg = .testBack then 1 else 0
  match result with
  | .none => 0
  | .good => 1
  | .seized => 2 + back
  | .link => 4 + back
  | .aborted => 6 + back

/-! ### Records (R193) -/

/-- A sample record taken apart (R193). -/
structure SampleFields where
  word0 : Word
  id : Nat
  quality : Nat
  sequence : BitVec 16
  deriving DecidableEq, Repr

def sampleFields (w0 w1 : Word) : SampleFields :=
  ⟨w0, field w1 0 10, field w1 10 2, BitVec.ofNat 16 (field w1 16 16)⟩

/-- The value of a sample in a format: none when a DECIMAL digit is above 9 (R47). -/
def sampleValue (f : Format) (w : Word) : Option Int :=
  match f with
  | .binary => some (signed16 w)
  | .decimal =>
    let units := field w 0 4
    let tens := field w 4 4
    let hundreds := field w 8 4
    let thousands := field w 12 4
    if units ≤ 9 ∧ tens ≤ 9 ∧ hundreds ≤ 9 ∧ thousands ≤ 9 then
      let v : Int := (thousands * 1000 + hundreds * 100 + tens * 10 + units : Nat)
      some (if flagBit w 31 then -v else v)
    else none

/-- A position report taken apart (R193). -/
structure PositionFields where
  position : Nat
  limitOpen : Bool
  limitClosed : Bool
  torque : Bool
  id : Nat
  sequence : BitVec 16
  deriving DecidableEq, Repr

def positionFields (w0 w1 : Word) : PositionFields :=
  ⟨field w0 0 11, flagBit w0 16, flagBit w0 17, flagBit w0 18, field w1 0 11, BitVec.ofNat 16 (field w1 16 16)⟩

/-- The four words of a command image; bits outside the fields read 0 (R193). -/
def Image.word (m : Image) : Nat → Word
  | 0 => pack [(10, m.target)]
  | 1 => pack [(10, m.rate)]
  | 2 => pack [(3, m.purpose.code), (5, 0), (2, m.source.code)]
  | _ => pack [(16, m.sequence.toNat)]

/-- The word an image read returns; a valve under control always presents one (R38; log 26). -/
def imageWord (m : Option Image) (k : Nat) : Word :=
  match m with
  | none => 0
  | some m => m.word k

end Sys2Proof.Machine
end

