-- ==== Sys2Proof/Machine/Flags.lean ====
section
/-! DEFINITION. The sixteen causes, ATTN and the attention word, and record errors (R180 to R185). -/

namespace Sys2Proof.Machine

/-- The sixteen causes (R181). -/
inductive Cause where
  | image | opened | held | isolated | escalated | failed | freed | valveFault | lateClose | sensorLost | writeRefused
  | handback | recordError | testDone | noIncident | retracted
  deriving DecidableEq, Repr

/-- The cause numbers (R181). -/
def Cause.number : Cause → Nat
  | .image => 0 | .opened => 1 | .held => 2 | .isolated => 3 | .escalated => 4 | .failed => 5 | .freed => 6
  | .valveFault => 7 | .lateClose => 8 | .sensorLost => 9 | .writeRefused => 10 | .handback => 11 | .recordError => 12
  | .testDone => 13 | .noIncident => 14 | .retracted => 15

/-- A cause is raised: its flag is set, its raise count goes up by one and its last-raise record is overwritten (R180). -/
def raise (e : Env) (c : Cause) (subject detail : Nat) (n : Net) : Net :=
  n.setCause c.number { n.cause c.number with
    flag := true
    count := satInc (n.cause c.number).count
    time := e.time
    subject := BitVec.ofNat 32 subject
    detail := BitVec.ofNat 32 detail }

/-- The numbers of the causes, ascending. -/
def causeIds : List Nat := List.range 16

/-- A cause draws attention at a level: its flag is set and it has that level (R183). -/
def CauseRecord.draws (r : CauseRecord) (level : Nat) : Bool := r.flag && r.level == level

/-- Some cause flag is set whose level is 1, 2 or 3 (R183). -/
def drawsAttention (n : Net) : Bool :=
  causeIds.any fun k => (n.cause k).draws 1 || (n.cause k).draws 2 || (n.cause k).draws 3

/-- The cause whose vector the attention word shows: the highest level, and within it the lowest number (R183). -/
def chosenCause (n : Net) : Option Nat :=
  [3, 2, 1].findSome? fun level => causeIds.find? fun k => (n.cause k).draws level

/-- ATTN and the attention word judged from the cause records (R183). -/
def judgeAttn (n : Net) : Net :=
  { n with
    attn := drawsAttention n
    attention := match chosenCause n with
      | none => {}
      | some k => ⟨true, (n.cause k).vector⟩ }

/-- A record error: the count, the last-error fields and the cause (R185, R198). -/
def recordError (e : Env) (window : Window) (reason : RecordReason) (rest : LastError) (n : Net) : Net :=
  raise e .recordError window.code reason.code
    { n with
      recordErrors := satInc n.recordErrors
      lastError := { rest with window := some window, reason := some reason, time := e.time } }

end Sys2Proof.Machine
end

