-- ==== Sys2Proof/Machine/IncidentEnds.lean ====
section
/-! DEFINITION. How an incident enters FREE and FAILED, and the counting of a release (R96, R99, R101). -/

namespace Sys2Proof.Machine

/-- The incident record with its hold ended: whichever way HELD is left, the timer is stopped and the reason is NONE (R89). -/
def Incident.unheld (r : Incident) : Incident := { r with holdTimer := none, holdReason := .none }

/-- The incident record on entry into FREE: no frames, depth 0, no job, no pending causes, no hold; the rest keeps its values
(R101). -/
def Incident.freed (r : Incident) : Incident :=
  { r.unheld with state := .free, frames := [], depth := 0, marker := .none, pendingCauses := [] }

/-- The detail of FREED at the end of a release: the three parts of the tally (R198). -/
def Tally.detail (t : Tally) : Nat := packFrom 0 [(7, t.opened), (1, 0), (7, t.faulted), (1, 0), (7, t.reclaimed)]

/-- An incident enters FREE at the end of its release: FREED is raised with the tally (R99, R101, R181). -/
def enterFree (e : Env) (i : Nat) (n : Net) : Net :=
  noteIncident i (raise e .freed i (n.incident i).tally.detail (modIncident i Incident.freed n))

/-- An incident enters FAILED with a reason: its hold is stopped and FAILED is raised; an incident already FAILED keeps the
reason it entered with (R96, R112, R118). -/
def enterFailed (e : Env) (i : Nat) (why : FailReason) (n : Net) : Net :=
  if (n.incident i).state = .failed then n
  else noteIncident i (raise e .failed i why.code
    (modIncident i (fun r => { r.unheld with state := .failed, failReason := why }) n))

/-- How a valve asked to open at a release came to rest (R79, R99). -/
inductive ReleasePart where
  | opened | faulted | reclaimed
  deriving DecidableEq, Repr

/-- A tally with one more in a part (R99). -/
def Tally.add (t : Tally) : ReleasePart → Tally
  | .opened => { t with opened := t.opened + 1 }
  | .faulted => { t with faulted := t.faulted + 1 }
  | .reclaimed => { t with reclaimed := t.reclaimed + 1 }

/-- The reopen count goes down by one and a part of the tally up by one; at 0 the releasing incident becomes FREE (R99). -/
def countRelease (e : Env) (k : Nat) (part : ReleasePart) (n : Net) : Net :=
  let n := modIncident k (fun r => { r with reopen := r.reopen - 1, tally := r.tally.add part }) n
  if (n.incident k).state = .releasing ∧ (n.incident k).reopen = 0 then enterFree e k n else n

/-- The release owner of a valve, if any, counts the valve in a part, and the valve has no release owner any more (R83, R99,
R145). -/
def endReleaseOwner (e : Env) (v : Nat) (part : ReleasePart) (n : Net) : Net :=
  match (n.valve v).releaseOwner with
  | none => n
  | some k => countRelease e k part (modValve v (fun x => { x with releaseOwner := none }) n)

end Sys2Proof.Machine
end

