-- ==== Sys2Proof/Machine/Jobs.lean ====
section
/-! DEFINITION. The job queue and the walker of the Graph Engine, and the frame push (R103 to R107, R129, R130). -/

namespace Sys2Proof.Machine

/-- The incident of a job, if it is an incident's (R103). -/
def Job.incident : Job → Option Nat
  | .boundary i _ => some i
  | .supply i _ => some i
  | _ => none

/-- The marker that follows a job is written (R103, R123); the cross-check has none (R124). -/
def setMarker (j : Job) (m : Marker) (n : Net) : Net :=
  match j with
  | .boundary i _ => modIncident i (fun r => { r with marker := m }) n
  | .supply i _ => modIncident i (fun r => { r with marker := m }) n
  | .adoptTopology => { n with topologyMarker := m }
  | .adoptSensors => { n with sensorsMarker := m }
  | .crossCheck => n

/-- A job whose incident is FAILED when it would start is dropped (R105). -/
def dropsAtStart (n : Net) (j : Job) : Bool :=
  match j.incident with
  | some i => (n.incident i).state = .failed
  | none => false

/-- One end of a cause valve becomes a seed unless the incident owns it or it is one already (R130). -/
def addSeed (n : Net) (i : Nat) (seeds : List Nat) (x : Nat) : List Nat :=
  let mine := match (n.node x).owner with
    | some o => o.incident == i
    | none => false
  if mine || decide (x ∈ seeds) then seeds else seeds ++ [x]

/-- The seeds of a pushed frame: end A and then end B of each cause valve (R130). -/
def seedsOf (n : Net) (i : Nat) (causes : List Nat) : List Nat :=
  causes.foldl (fun acc v => addSeed n i (addSeed n i acc (n.valve v).endA) (n.valve v).endB) []

/-- A frame is pushed at the start of a BOUNDARY job at level 1 or above (R129). -/
def pushFrame (e : Env) (i level : Nat) (n : Net) : Net :=
  let causes := (n.incident i).pendingCauses.take Config.maxFrameCauses
  let frame : Frame := ⟨level, causes, seedsOf n i causes, [], 0, 0, false⟩
  raise e .escalated i level (modIncident i (fun r => { r with
    frames := r.frames ++ [frame]
    depth := level
    generation := r.generation + 1
    pendingCauses := r.pendingCauses.drop Config.maxFrameCauses }) n)

/-- A job starts on the idle walker: its marker becomes RUNNING, and an escalation's frame is pushed (R105). -/
def startJob (e : Env) (j : Job) (n : Net) : Net :=
  let n := setMarker j .running { n with walker := some ⟨j, false⟩ }
  match j with
  | .boundary i level => if level = 0 then n else pushFrame e i level n
  | _ => n

/-- The oldest of the waiting jobs that is not dropped starts (R105). -/
def startFrom (e : Env) : List Job → Net → Net
  | [], n => { n with jobs := [] }
  | j :: js, n => if dropsAtStart n j then startFrom e js (setMarker j .none n) else startJob e j { n with jobs := js }

/-- When the walker is idle, the oldest waiting job starts (R105). -/
def startJobs (e : Env) (n : Net) : Net := if n.walker.isSome then n else startFrom e n.jobs n

/-- A job joins the queue at its tail, and starts at once when the walker is idle and the queue was empty (R104). -/
def queueJob (e : Env) (j : Job) (n : Net) : Net := startJobs e (setMarker j .queued { n with jobs := n.jobs ++ [j] })

/-- The waiting job of an incident is removed (R98, R117). -/
def dropWaiting (i : Nat) (n : Net) : Net := { n with jobs := n.jobs.filter fun j => j.incident != some i }

/-- The running job of an incident is abandoned (R98, R107). -/
def abandonRunning (i : Nat) (n : Net) : Net :=
  { n with walker := n.walker.map fun w => if w.job.incident = some i then { w with abandoned := true } else w }

/-- An incident in CHECKING whose marker is NONE is given a SUPPLY job (R84). -/
def queueCheck (e : Env) (i : Nat) (n : Net) : Net :=
  let r := n.incident i
  if r.state = .checking ∧ r.marker = .none then queueJob e (.supply i r.generation) n else n

/-- Every incident in CHECKING has its SUPPLY job (R84). -/
def queueChecks (e : Env) (n : Net) : Net := incidentIds.foldl (fun n i => queueCheck e i n) n

/-- A completion is done: the SUPPLY jobs it calls for are queued, the walker becomes idle and the next job starts (R84, R105). -/
def finishJob (e : Env) (n : Net) : Net := startJobs e { queueChecks e n with walker := none }

/-- One more job completed with its result applied (R107). -/
def countCompleted (n : Net) : Net := { n with jobsCompleted := satInc n.jobsCompleted }

/-- The running job, if it is not an abandoned one. -/
def runningJob (n : Net) : Option Job :=
  match n.walker with
  | some w => if w.abandoned then none else some w.job
  | none => none

/-- An abandoned job completes: its result is discarded and counted (R107). -/
def completeAbandoned (e : Env) (n : Net) : Net :=
  match n.walker with
  | some w =>
    if w.abandoned then startJobs e { n with walker := none, jobsAbandoned := satInc n.jobsAbandoned } else n
  | none => n

end Sys2Proof.Machine
end

