-- ==== Sys2Proof/Machine/Strokes.lean ====
section
/-! DEFINITION. The Stroke Controller (chapters 8 and 9): images, the stroke queue and slots, requests, supervision, completion,
faults, stops, handback, tests, and position reports. -/

namespace Sys2Proof.Machine

/-! ### What the stored report shows (R142) -/

/-- Confirmed closed: limit-closed set, or limit-open clear and a position not greater than the closed tolerance (R142). -/
def Valve.confirmedClosed (x : Valve) (p : Params) : Bool :=
  match x.report with
  | none => false
  | some r => r.limitClosed || (!r.limitOpen && decide (r.position ≤ p.closedTolerance))

/-- Confirmed open: limit-open set, or limit-closed clear and a position not less than 1000 minus the open tolerance (R142). -/
def Valve.confirmedOpen (x : Valve) (p : Params) : Bool :=
  match x.report with
  | none => false
  | some r => r.limitOpen || (!r.limitClosed && decide (1000 - p.openTolerance ≤ r.position))

/-- A stroke is standing: motion WAITING, ISSUED or TRAVEL. -/
def Valve.inStroke (x : Valve) : Bool := x.motion = .waiting || x.motion = .issued || x.motion = .travel

/-- The valve is in a CLOSE stroke (R92). -/
def Valve.inCloseStroke (x : Valve) : Bool := x.inStroke && x.purpose = .close

/-- A test stands: the valve is in a stroke whose purpose is a test leg (R168). -/
def Valve.underTest (x : Valve) : Bool := x.inStroke && (x.purpose = .testOut || x.purpose = .testBack)

/-! ### Rates and phases (R152, R153) -/

/-- 10000 divided by the full stroke time, truncated, and 1 if the quotient is 0 (R152). -/
def Valve.coarseRate (x : Valve) : Nat := max (10000 / x.strokeTime) 1

/-- The coarse rate divided by the fine divisor, truncated, and 1 if the quotient is 0 (R152). -/
def Valve.fineRate (x : Valve) : Nat := max (x.coarseRate / x.divisor) 1

def Valve.rate (x : Valve) : Phase → Nat
  | .coarse => x.coarseRate
  | .fine => x.fineRate

/-- The phase of the stored position: FINE when it is not above the crossover point; `unknown` with no stored report (R153). -/
def Valve.phaseAt (x : Valve) (unknown : Phase) : Phase :=
  match x.report with
  | none => unknown
  | some r => if r.position ≤ x.crossover then .fine else .coarse

/-- The TEST_OUT target: the home position less the depth (R169). -/
def TestRecord.target (t : TestRecord) : Nat := t.home - t.depth

/-! ### Images (R115, R146) -/

/-- A new image: the image sequence counter goes up by one and the image carries it (R146). -/
def Valve.present (x : Valve) (target rate : Nat) (purpose : Purpose) (source : Source) (awaiting : Bool) : Valve :=
  { x with
    imageSeq := x.imageSeq + 1
    image := some ⟨target, rate, purpose, x.imageSeq + 1, source, awaiting⟩ }

/-- The target of a HOLD image: the last stored position, else the end of the normal state (R115). -/
def Valve.holdTarget (x : Valve) : Nat :=
  match x.report with
  | some r => r.position
  | none => match x.normal with
    | .opened => 1000
    | .closed => 0

/-- A HOLD image (R115). -/
def Valve.hold (x : Valve) : Valve := x.present x.holdTarget 0 .none .hold false

/-- The three timers stopped and the awaiting-pickup flag cleared (R159, R160, R161). -/
def Valve.still (x : Valve) : Valve :=
  { x with
    pickup := none
    progress := none
    deadline := none
    image := x.image.map fun m => { m with awaiting := false } }

/-- A stroke stopped: REST with no purpose, under a HOLD image (R161). -/
def Valve.stopped (x : Valve) : Valve := { x.still with motion := .rest, purpose := .none }.hold

/-- The valve at a grant (R151, R153, R170): ISSUED, CONTROLLED, a new image awaiting pickup, the pickup timer started. -/
def Valve.granted (x : Valve) (p : Params) (now : Time) : Valve :=
  let y := match x.purpose with
    | .openUp =>
      let ph := x.phaseAt .fine
      { x with phase := ph }.present 1000 (x.rate ph) .openUp .openUp true
    | .testOut => { x with phase := .fine }.present x.test.target x.fineRate .testOut .test true
    | .testBack =>
      let ph := x.phaseAt .fine
      { x with phase := ph }.present x.test.home (x.rate ph) .testBack .test true
    | .close | .none =>
      let ph := x.phaseAt .coarse
      { x with phase := ph }.present 0 (x.rate ph) .close .close true
  { y with
    motion := .issued
    control := .controlled
    pickup := startTimer now p.pickupTimeout
    progress := none
    deadline := none
    seated := false }

/-! ### The queue and the slots (R147, R150) -/

/-- The whole queue from its head: CLOSE, then OPEN, then TEST entries (R147). -/
def StrokeQueue.all (q : StrokeQueue) : List Nat := q.close ++ q.openUp ++ q.test

/-- The queue without a valve's entry. -/
def StrokeQueue.without (q : StrokeQueue) (v : Nat) : StrokeQueue :=
  ⟨q.close.filter (· != v), q.openUp.filter (· != v), q.test.filter (· != v)⟩

/-- A valve joins the tail of the class of a purpose (R147). -/
def StrokeQueue.join (q : StrokeQueue) (v : Nat) : Purpose → StrokeQueue
  | .close => { q with close := q.close ++ [v] }
  | .openUp => { q with openUp := q.openUp ++ [v] }
  | _ => { q with test := q.test ++ [v] }

/-- A large valve: diameter class 6, 7 or 8 (R150). -/
def Valve.large (x : Valve) : Bool := decide (Config.largeClass ≤ x.diameter)

/-- The large valves that hold slots (R150). -/
def largeInSlots (n : Net) : Nat := n.slots.countP fun v => (n.valve v).large

/-- An entry is eligible unless its valve is large and three large valves hold slots (R150). -/
def eligible (n : Net) (v : Nat) : Bool := !(n.valve v).large || decide (largeInSlots n < Config.maxLarge)

/-- The first eligible entry of a queue, with the number of entries passed over before it (R150). -/
def firstEligible (n : Net) : List Nat → Nat → Option (Nat × Nat)
  | [], _ => none
  | v :: q, passed => if eligible n v then some (passed, v) else firstEligible n q (passed + 1)

/-- A grant: the valve leaves the queue, takes a slot and is issued (R151). -/
def grant (e : Env) (v : Nat) (n : Net) : Net :=
  noteValve v false (modValve v (fun x => x.granted n.params e.time)
    { n with queue := n.queue.without v, slots := n.slots ++ [v] })

/-- The arbiter grants the first eligible entry while a slot is free and one remains, at most `k` times (R150). -/
def grantUpTo (e : Env) : Nat → Net → Net
  | 0, n => n
  | k + 1, n =>
    if n.slots.length < Config.maxSlots then
      match firstEligible n n.queue.all 0 with
      | none => n
      | some (passed, v) => grantUpTo e k (grant e v { n with passedOver := passed })
    else n

/-- The arbiter consulted: there are twelve slots, so at most twelve grants (R150). -/
def arbitrate (e : Env) (n : Net) : Net := grantUpTo e Config.maxSlots n

/-- The valve's queue entry is removed; a slot it holds is released and offered to the arbiter at once (R150, R161). -/
def vacate (e : Env) (v : Nat) (n : Net) : Net :=
  let n' := { n with queue := n.queue.without v, slots := n.slots.filter (· != v) }
  if v ∈ n.slots then arbitrate e n' else n'

/-- A valve joins the tail of a class: motion WAITING; the seated flag is cleared as the motion leaves REST; the entry is offered
to the arbiter at once (R147, R148, R162). -/
def joinQueue (e : Env) (v : Nat) (purpose : Purpose) (n : Net) : Net :=
  let n := modValve v (fun x => { x with motion := .waiting, purpose := purpose, seated := false })
    { n with queue := (n.queue.without v).join v purpose }
  arbitrate e (noteValve v false n)

/-! ### Stops, tests' ends, handback (R161, R164, R168) -/

/-- A stroke is stopped (R161): REST, no purpose, HOLD image; the entry or slot is freed. -/
def stopStroke (e : Env) (v : Nat) (n : Net) : Net := vacate e v (noteValve v false (modValve v Valve.stopped n))

/-- A test ends: the record is written and TEST_DONE is raised (R168, R172 to R175). -/
def endTest (e : Env) (v : Nat) (result : TestResult) (leg : Purpose) (fault : FaultReason) (abort : AbortCause)
    (n : Net) : Net :=
  raise e .testDone v (testEnding result leg) (modValve v (fun x => { x with
    test := { x.test with result := result, leg := leg, fault := fault, abort := abort, time := e.time } }) n)

/-- The abort of the test that stood when the valve was `x`; nothing if none stood. -/
def abortTest (e : Env) (v : Nat) (x : Valve) (why : AbortCause) (n : Net) : Net :=
  if x.underTest then endTest e v .aborted x.purpose .none why n else n

/-- The valve agrees with memory's command: shadow word 0 is mirrored and holds a valid target that matches where the valve
rests (R164). -/
def agreesWithMemory (e : Env) (n : Net) (v : Nat) : Bool :=
  let w := lookup ShadowWord.atReset e.shadow (4 * v)
  let target := field w.word 0 10
  let p := n.params
  let x := n.valve v
  w.mirrored && decide (target ≤ 1000) &&
    ((decide (1000 - p.openTolerance ≤ target) && x.confirmedOpen p) ||
      (decide (target ≤ p.closedTolerance) && x.confirmedClosed p))

/-- A valve is handed back: a standing stroke is stopped; then FREE if it agrees with memory, else HANDBACK_PENDING with a HOLD
image, and HANDBACK is raised (R164). The image is a new one also for a valve that already presents a HOLD image (R146 over R115;
log 34). -/
def handback (e : Env) (v : Nat) (n : Net) : Net :=
  let n := if (n.valve v).inStroke then stopStroke e v n else n
  if agreesWithMemory e n v then modValve v (fun x => { x with control := .free, image := none }) n
  else raise e .handback v (n.valve v).motion.code
    (modValve v (fun x => { x with control := .handbackPending }.hold) n)

/-! ### Requests (R114, R148, R149) -/

/-- The holder-gained notice: the valve comes under control, any movement but a closing one is stopped, a test is aborted, and a
release owner reclaims (R114, R174, R83). -/
def holderGained (e : Env) (v : Nat) (n : Net) : Net :=
  let x := n.valve v
  let n :=
    if x.inCloseStroke then n
    else if x.inStroke then
      abortTest e v x .holderGained (stopStroke e v (modValve v (fun x => { x with control := .controlled }) n))
    else match x.control with
      | .free => modValve v (fun x => { x with control := .controlled }.hold) n
      | .handbackPending => modValve v (fun x => { x with control := .controlled }) n
      | .controlled => n
  endReleaseOwner e v .reclaimed n

/-- A close request (R148). -/
def closeRequest (e : Env) (v : Nat) (n : Net) : Net :=
  let x := n.valve v
  match x.motion, x.purpose with
  | .rest, _ | .fault, _ => joinQueue e v .close n
  | _, .close => n
  | .waiting, _ => joinQueue e v .close (abortTest e v x .closeRequest n)
  | _, _ => joinQueue e v .close (abortTest e v x .closeRequest (stopStroke e v n))

/-- An open request (R149). -/
def openRequest (e : Env) (v : Nat) (n : Net) : Net :=
  match (n.valve v).motion with
  | .rest | .fault => joinQueue e v .openUp n
  | _ => n

/-- An incident loses a valve's holder bit; a CLOSE stroke of a valve left without a holder is stopped (R83, R161). -/
def loseHolder (e : Env) (i v : Nat) (n : Net) : Net :=
  let n := modValve v (fun x => { x with holders := x.holders.filter (· != i) }) n
  if (n.valve v).holders = [] ∧ (n.valve v).inCloseStroke then stopStroke e v n else n

/-- A valve that has lost its last holder is asked to open when its normal state is OPEN and it is not confirmed open; else it is
handed back (R98, R138). -/
def opensOnLoss (n : Net) (v : Nat) : Bool := (n.valve v).normal = .opened && !(n.valve v).confirmedOpen n.params

/-! ### Pickup (R154, R156) -/

/-- The expected time of a stroke or leg from `s` to `t`: distances in the coarse and fine zones, each multiplied by 100 and
divided by the zone's rate (R156). -/
def Valve.expectedTime (x : Valve) (s t : Nat) : Nat :=
  let c := x.crossover
  match x.purpose with
  | .testOut => (s - t) * 100 / x.fineRate
  | .close | .none => (s - max t c) * 100 / x.coarseRate + (min s c - t) * 100 / x.fineRate
  | .openUp | .testBack => (t - max s c) * 100 / x.coarseRate + (min t c - s) * 100 / x.fineRate

/-- The deadline: the expected time by the deadline margin, at least 1 (R156). -/
def Valve.deadlineTime (x : Valve) (p : Params) (s t : Nat) : Nat := max (x.expectedTime s t * p.deadlineMargin / 100) 1

/-- The start position of a stroke toward `t` (R154). -/
def Valve.startPosition (x : Valve) (t : Nat) : Nat :=
  match x.report with
  | some r => r.position
  | none => if t < 500 then 1000 else 0

/-- A pickup notice for an image awaiting pickup (R154). -/
def pickup (e : Env) (v : Nat) (n : Net) : Net :=
  let x := n.valve v
  let p := n.params
  let y := { x with pickup := none, image := x.image.map fun m => { m with awaiting := false } }
  if x.motion = .issued then
    let t := match x.image with
      | some m => m.target
      | none => 0
    let s := x.startPosition t
    noteValve v false (n.setValve v { y with
      motion := .travel
      reference := s
      best := s
      progress := startTimer e.time p.progressWindow
      deadline := startTimer e.time (x.deadlineTime p s t) })
  else n.setValve v y

/-! ### Faults and completions (R159, R160, R171, R172) -/

/-- A stroke faults (R160, R172). -/
def faultStroke (e : Env) (v : Nat) (why : FaultReason) (n : Net) : Net :=
  let x := n.valve v
  let n := modValve v (fun x => { x.still with
    motion := .fault
    fault := why
    health := if why = .noPickup then x.health else .seized }) n
  let n := vacate e v (noteValve v true (raise e .valveFault v why.code n))
  match x.purpose with
  | .openUp => handback e v (endReleaseOwner e v .faulted n)
  | .testOut | .testBack =>
    handback e v (endTest e v (if why = .noPickup then .link else .seized) x.purpose why .none n)
  | .close | .none => n

/-- The TEST_BACK leg starts: the slot is kept, a new image awaits pickup (R171). -/
def startTestBack (e : Env) (v : Nat) (n : Net) : Net :=
  noteValve v false (modValve v (fun x =>
    let ph := x.phaseAt .fine
    { { x with phase := ph }.present x.test.home (x.rate ph) .testBack .test true with
      purpose := .testBack
      motion := .issued
      progress := none
      deadline := none
      pickup := startTimer e.time n.params.pickupTimeout }) n)

/-- A stroke completes (R159, R171, R172). -/
def completeStroke (e : Env) (v : Nat) (n : Net) : Net :=
  let x := n.valve v
  let rested : Valve := { x.still with motion := .rest, purpose := .none }
  match x.purpose with
  | .close | .none =>
    let y := if x.motion = .waiting then { rested with phase := .fine }.present 0 x.fineRate .close .close false else rested
    vacate e v (noteValve v false (n.setValve v { y with seated := true }))
  | .openUp => handback e v (endReleaseOwner e v .opened (vacate e v (noteValve v false (n.setValve v rested))))
  | .testOut => startTestBack e v n
  | .testBack =>
    handback e v (endTest e v .good .testBack .none .none
      (vacate e v (noteValve v false (n.setValve v { rested with health := .good }))))

/-- The stored report shows the stroke's end reached (R159, R169, R170, R171). -/
def Valve.endReached (x : Valve) (p : Params) (position : Nat) : Bool :=
  match x.purpose with
  | .close => x.confirmedClosed p
  | .openUp => x.confirmedOpen p
  | .testOut => x.motion != .waiting && decide (position ≤ x.test.target + p.closedTolerance)
  | .testBack => decide (x.test.home - p.closedTolerance ≤ position) || x.confirmedOpen p
  | .none => false

/-- The phase that a report at a position brings, if it changes the phase (R153). -/
def Valve.newPhase (x : Valve) (position : Nat) : Option Phase :=
  match x.purpose, x.image with
  | .testOut, _ | .none, _ | _, none => none
  | _, some m =>
    match x.phase with
    | .coarse => if position ≤ x.crossover ∧ m.target < x.crossover then some .fine else none
    | .fine => if x.crossover < position ∧ x.crossover < m.target then some .coarse else none

/-- A phase change: a new image at the new phase's rate, awaiting pickup, the pickup timer restarted (R153). -/
def changePhase (e : Env) (v position : Nat) (n : Net) : Net :=
  let x := n.valve v
  match x.newPhase position, x.image with
  | some ph, some m =>
    n.setValve v { { x with phase := ph }.present m.target (x.rate ph) m.purpose m.source true with
      pickup := startTimer e.time n.params.pickupTimeout }
  | _, _ => n

/-- A closing stroke: CLOSE or TEST_OUT (R156). -/
def Valve.closingStroke (x : Valve) : Bool := x.purpose = .close || x.purpose = .testOut

/-- A report lies farther from the target than the best position by more than the reverse tolerance, judged for a closing stroke as
above it and for an opening stroke as below it (R158; log 41). -/
def Valve.reversed (x : Valve) (p : Params) (position : Nat) : Bool :=
  if x.closingStroke then decide (x.best + p.reverseTolerance < position)
  else decide (position + p.reverseTolerance < x.best)

/-- The supervision points after a report in TRAVEL: the best position, and on an advance by at least the progress step the
reference and the restarted progress timer (R157, R158). That a closing stroke counts a lower position as nearer the target also
below the target, where a TEST_OUT leg can start, is the model's choice (log 41). -/
def Valve.advanced (x : Valve) (p : Params) (now : Time) (position : Nat) : Valve :=
  let x := { x with best := if x.closingStroke then min x.best position else max x.best position }
  let advances := if x.closingStroke then decide (position + p.progressStep ≤ x.reference)
    else decide (x.reference + p.progressStep ≤ position)
  if advances then { x with reference := position, progress := startTimer now p.progressWindow } else x

/-- A breach: a seated held valve at REST shows itself open beyond the breach margin (R162). -/
def Valve.breached (x : Valve) (p : Params) (position : Nat) : Bool :=
  x.control = .controlled && !x.holders.isEmpty && x.seated && !x.confirmedClosed p &&
    decide (p.closedTolerance + p.breachMargin < position)

/-- The judgments of a stored report by the motion it finds, in their order; a FREE valve at REST is judged for nothing (R166;
log 16). A breach leaves the purpose as it finds it, NONE at REST: the model's choice (R143, R162; log 37). -/
def judgeReport (e : Env) (v : Nat) (r : Report) (n : Net) : Net :=
  let x := n.valve v
  let p := n.params
  match x.motion with
  | .rest =>
    if x.control = .free then n
    else if x.breached p r.position then
      noteValve v true (raise e .valveFault v FaultReason.breach.code
        (modValve v (fun x => { x with motion := .fault, fault := .breach, health := .seized, seated := false }) n))
    else if x.confirmedClosed p then modValve v (fun x => { x with seated := true }) n
    else n
  | .waiting => if x.endReached p r.position then completeStroke e v n else n
  | .issued => if x.endReached p r.position then completeStroke e v n else changePhase e v r.position n
  | .travel =>
    if x.endReached p r.position then completeStroke e v n
    else if r.torque then faultStroke e v .torque n
    else if x.reversed p r.position then faultStroke e v .reverse n
    else changePhase e v r.position (modValve v (fun x => x.advanced p e.time r.position) n)
  | .fault =>
    if x.holders.isEmpty then
      if x.confirmedClosed p || x.confirmedOpen p then
        modValve v (fun x => { x with motion := .rest, purpose := .none }) n
      else n
    else if x.confirmedClosed p then
      raise e .lateClose v x.fault.code
        (modValve v (fun x => { x with motion := .rest, purpose := .none, seated := true }) n)
    else n

/-- A position report taken whole (R141, R142, R166). -/
def takePosition (e : Env) (slot : Nat) (w0 w1 : Word) (n : Net) : Net :=
  let f := positionFields w0 w1
  let refuse := fun (why : RecordReason) => recordError e .position why { slot := some slot, id := some f.id } n
  let x := n.valve slot
  if f.id ≠ slot then refuse .slotMismatch
  else if 1000 < f.position ∨ (f.limitOpen ∧ f.limitClosed) then refuse .fieldRange
  else if x.tag = .empty then refuse .noEntry
  else if x.report.any (fun r => r.sequence = f.sequence) then modValve slot (fun x => { x with repeats := satInc x.repeats }) n
  else
    let r : Report := ⟨f.position, f.limitOpen, f.limitClosed, f.torque, f.sequence, e.time⟩
    judgeReport e slot r (noteValve slot false (modValve slot (fun x => { x with report := some r }) n))

/-! ### Notices of the Bus Interposer and service (R165, R173, R175, R176) -/

/-- A processor command write: it ends HANDBACK_PENDING and aborts a test; it has no effect on any other valve (R36, R165,
R173). -/
def processorWrite (e : Env) (v : Nat) (n : Net) : Net :=
  let x := n.valve v
  if x.underTest then
    abortTest e v x .processorWrite
      (vacate e v (noteValve v false (n.setValve v
        { x.still with motion := .rest, purpose := .none, control := .free, image := none })))
  else if x.control = .handbackPending then n.setValve v { x with control := .free, image := none }
  else n

/-- VALVE_SERVICE OUT: OUT_OF_SERVICE, and a standing test is aborted; a leg under way is stopped and handed back (R175). -/
def serviceOut (e : Env) (v : Nat) (n : Net) : Net :=
  let x := n.valve v
  let n := modValve v (fun x => { x with health := .outOfService }) n
  if x.underTest then
    let n := if x.motion = .waiting then
        vacate e v (noteValve v false (modValve v (fun x => { x with motion := .rest, purpose := .none }) n))
      else handback e v (stopStroke e v n)
    abortTest e v x .serviceOut n
  else n

/-- VALVE_SERVICE IN: UNTESTED (R176). -/
def serviceIn (v : Nat) (n : Net) : Net := modValve v (fun x => { x with health := .untested }) n

/-- An accepted TEST_VALVE: the depth and home are written and the valve joins the TEST class (R168, R169). -/
def startTest (e : Env) (v depth : Nat) (n : Net) : Net :=
  let home := match (n.valve v).report with
    | some r => r.position
    | none => 0
  joinQueue e v .testOut (modValve v (fun x => { x with test := { x.test with depth := depth, home := home } }) n)

end Sys2Proof.Machine
end

