-- ==== Sys2Proof/Machine/Incidents.lean ====
section
/-! DEFINITION. The Incident Table (chapters 5 and 7): opening, closing, isolation, holds, faults recorded, escalation, release and
retraction. -/

namespace Sys2Proof.Machine

/-! ### Opening (R85) -/

/-- What an open request carries beside its time (R77, R85, R86). -/
structure Opening where
  node : Nat
  cell : Option Nat
  policy : Policy
  holdExpiry : Nat
  note : LocationNote

/-- The record at the opening; the claim of the origin node adds its one node to the region count (R85). -/
def Incident.opened (r : Incident) (o : Opening) (now : Time) : Incident where
  state := .searching
  origins := [⟨o.node, o.cell, now⟩]
  policy := o.policy
  holdExpiry := o.holdExpiry
  generation := r.generation + 1
  frames := [⟨0, [], [o.node], [], 0, 0, false⟩]
  note := o.note
  timeOpened := now

/-- Incident `i`, which is FREE, is opened (R85); its incident notice is given by the caller (log 15). -/
def openIncident (e : Env) (i : Nat) (o : Opening) (n : Net) : Net :=
  raise e .opened i o.node
    (queueJob e (.boundary i 0) (claimNode i 0 o.node (modIncident i (fun r => r.opened o e.time) n)))

/-! ### Isolation and closing (R92 to R94) -/

/-- The isolation condition (R94). -/
def isolationMet (n : Net) (i : Nat) : Bool :=
  let r := n.incident i
  r.boundary.all (fun b => b.failed || ((n.valve b.valve).confirmedClosed n.params && (n.valve b.valve).motion = .rest)) &&
    r.marker = .none && r.pendingCauses.isEmpty

/-- An incident in CLOSING that meets the isolation condition becomes ISOLATED (R94). -/
def judgeIsolation (e : Env) (i : Nat) (n : Net) : Net :=
  if (n.incident i).state = .closing ∧ isolationMet n i then
    noteIncident i (raise e .isolated i (n.incident i).depth
      (modIncident i (fun r => { r with state := .isolated, timeIsolated := some e.time }) n))
  else n

/-- The valves asked to close on entry into CLOSING, in frame order and then list order (R92). -/
def closeRequests (n : Net) (i : Nat) : List Nat :=
  (((n.incident i).frames.filter Frame.checked).flatMap Frame.boundary).filterMap fun b =>
    if !b.failed && !(n.valve b.valve).confirmedClosed n.params && !(n.valve b.valve).inCloseStroke then some b.valve else none

/-- Every unchecked frame becomes checked (R88, R90, R91). -/
def Incident.allChecked (r : Incident) : Incident := { r with frames := r.frames.map fun f => { f with checked := true } }

/-- The close requests that an entry into CLOSING would make now (R90: their number is the detail of CONFIRM). -/
def requestsAtClosing (n : Net) (i : Nat) : List Nat := closeRequests (modIncident i Incident.allChecked n) i

/-- An incident's plan is consented to: its frames are checked, it enters CLOSING, the close requests are made and isolation is
judged (R88, R90, R91, R92). -/
def enterClosing (e : Env) (i : Nat) (n : Net) : Net :=
  let n := noteIncident i (modIncident i (fun r => { r.unheld.allChecked with state := .closing }) n)
  judgeIsolation e i ((closeRequests n i).foldl (fun n v => closeRequest e v n) n)

/-! ### The supply result and holds (R88 to R91) -/

/-- An incident enters HELD (R88, R89). -/
def enterHeld (e : Env) (i : Nat) (why : HoldReason) (n : Net) : Net :=
  noteIncident i (raise e .held i why.code (modIncident i (fun r => { r with
    state := .held
    holdReason := why
    holdTimer := if why = .policy ∧ r.holdExpiry ≠ 0 then startTimer e.time r.holdExpiry else none }) n))

/-- A supply result is applied to an incident in CHECKING (R88). -/
def applySupply (e : Env) (i : Nat) (cut : List Nat) (n : Net) : Net :=
  let n := modIncident i (fun r => { r with cutList := cut.take Config.maxCutList, cutCount := cut.length }) n
  if cut ≠ [] then enterHeld e i .supplyCut n
  else match (n.incident i).policy with
    | .auto => enterClosing e i n
    | .confirm => enterHeld e i .policy n

/-- Expiry of the hold timer of a POLICY hold acts as CONFIRM (R91). -/
def expireHold (e : Env) (i : Nat) (n : Net) : Net :=
  let r := n.incident i
  if r.state = .held ∧ r.holdReason = .policy ∧ timerDue r.holdTimer e.time then enterClosing e i n else n

/-! ### Valve notices (R93, R125, R126, R134) -/

/-- The states in which a fault becomes a pending cause (R125). -/
def IncidentState.records : IncidentState → Bool
  | .searching | .checking | .held | .closing | .isolated => true
  | _ => false

/-- A fault of a held valve is recorded (R125); a ninth pending cause fails the incident (R126, R134). -/
def recordFault (e : Env) (i v : Nat) (n : Net) : Net :=
  let r := n.incident i
  match r.entry v with
  | none => n
  | some (_, b) =>
    if b.failed then n
    else
      let n := modIncident i (fun r => r.withFailed v true) n
      if !r.state.records then n
      else if Config.maxPending ≤ r.pendingCauses.length then enterFailed e i .causeOverflow n
      else modIncident i (fun r => { r with pendingCauses := r.pendingCauses ++ [v] }) n

/-- An incident in CLOSING takes a notice that reports no fault: the close request is made again for a valve at REST that is not
confirmed closed, and isolation is judged (R93). -/
def takeClosingNotice (e : Env) (i v : Nat) (n : Net) : Net :=
  let again : Bool := match (n.incident i).entry v with
    | some (checked, b) =>
      checked && !b.failed && (n.valve v).motion = .rest && !(n.valve v).confirmedClosed n.params
    | none => false
  judgeIsolation e i (if again then closeRequest e v n else n)

/-- A holding incident takes a valve notice (R93, R125). -/
def takeValveNotice (e : Env) (a : ValveNotice) (i : Nat) (n : Net) : Net :=
  if a.fault then recordFault e i a.valve n
  else if (n.incident i).state = .closing then takeClosingNotice e i a.valve n
  else n

/-! ### Escalation (R127, R128) -/

/-- Escalation is called for (R127). -/
def callsForEscalation (r : Incident) : Bool :=
  (r.state = .held || r.state = .closing || r.state = .isolated) && !r.pendingCauses.isEmpty && r.marker = .none

/-- Escalation judged for an incident (R127, R128). -/
def escalate (e : Env) (i : Nat) (n : Net) : Net :=
  let r := n.incident i
  if !callsForEscalation r then n
  else if Config.maxDepth ≤ r.depth then enterFailed e i .depth n
  else noteIncident i (queueJob e (.boundary i (r.depth + 1))
    (modIncident i (fun r => { r.unheld with state := .searching }) n))

/-! ### Valves that lose their last holder (R98, R138) -/

/-- A valve that has lost its last holder is asked to open for the incident, with or without a release owner, or is handed back
(R98, R138). -/
def letGo (e : Env) (owner : Option Nat) (v : Nat) (n : Net) : Net :=
  if opensOnLoss n v then openRequest e v (modValve v (fun x => { x with releaseOwner := owner }) n) else handback e v n

/-- The valves of a list that no incident holds any more. -/
def unheldValves (n : Net) (vs : List Nat) : List Nat := vs.filter fun v => (n.valve v).holders.isEmpty

/-- An incident's bit is removed from each of the valves (R98, R138). -/
def loseHolders (e : Env) (i : Nat) (vs : List Nat) (n : Net) : Net := vs.foldl (fun n v => loseHolder e i v n) n

/-! ### Release (R98) -/

/-- Steps 1 to 4 of a release: no job, no causes, no hold, no claims, no holder bits (R98). -/
def dissolve (e : Env) (i : Nat) (n : Net) : Net :=
  let n := abandonRunning i (dropWaiting i n)
  let n := modIncident i (fun r => { r.unheld with marker := .none, pendingCauses := [] }) n
  let n := clearOwners (fun o => o.incident == i) n
  loseHolders e i ((n.incident i).boundary.map Boundary.valve) n

/-- The number of valves that a release of the incident asks to open (R98). -/
def releaseCount (e : Env) (i : Nat) (n : Net) : Nat :=
  let vs := (n.incident i).boundary.map Boundary.valve
  let n := dissolve e i n
  ((unheldValves n vs).filter (opensOnLoss n)).length

/-- A release is carried out (R98); with no valve asked to open the incident is FREE at once (R99). -/
def releaseIncident (e : Env) (i : Nat) (n : Net) : Net :=
  let vs := (n.incident i).boundary.map Boundary.valve
  let count := releaseCount e i n
  let n := dissolve e i n
  let n := (unheldValves n vs).foldl (fun n v => letGo e (some i) v n) n
  let n := noteIncident i (modIncident i (fun r => { r with
    reopen := count, tally := {}, frames := [], depth := 0, state := .releasing }) n)
  if count = 0 then enterFree e i n else n

/-! ### Retraction (R137, R138) -/

/-- The outermost frame of an incident (R80). -/
def Incident.outermost (r : Incident) : Option Frame := r.frames[r.depth]?

/-- The first cause valve of a frame that is not confirmed closed at REST (R137). -/
def openCause (n : Net) (f : Frame) : Option Nat :=
  f.causes.find? fun v => !((n.valve v).confirmedClosed n.params && (n.valve v).motion = .rest)

/-- The number of valves of a frame that its retraction asks to open (R138). -/
def retractCount (e : Env) (i : Nat) (f : Frame) (n : Net) : Nat :=
  let vs := f.boundary.map Boundary.valve
  let n := loseHolders e i vs n
  ((unheldValves n vs).filter (opensOnLoss n)).length

/-- A retraction of the outermost frame is carried out (R138). -/
def retractFrame (e : Env) (i : Nat) (f : Frame) (n : Net) : Net :=
  let vs := f.boundary.map Boundary.valve
  let d := (n.incident i).depth
  let n := loseHolders e i vs n
  let n := (unheldValves n vs).foldl (fun n v => letGo e none v n) n
  let n := clearOwners (fun o => o.incident == i && o.level == d) n
  let n := modIncident i (fun r => f.causes.foldl (fun r v => r.withFailed v false) r) n
  raise e .retracted i (d - 1) (modIncident i (fun r => { r with frames := r.frames.take d, depth := d - 1 }) n)

end Sys2Proof.Machine
end

