-- ==== Sys2Proof/Machine/Sensors.lean ====
section
/-! DEFINITION. The Sample Monitor (chapter 3): intake of samples, baselines, the sensor state machine, silence, lost latches,
re-baselining, and the two image notices. -/

namespace Sys2Proof.Machine

/-! ### Baseline and deviation (R51, R52) -/

/-- The baseline value B: the baseline divided by 256, truncated toward zero (section 3.4). -/
def Sensor.baselineValue (s : Sensor) : Int := s.baseline.tdiv 256

/-- Seeding: the baseline is the value × 256 (R51). -/
def Sensor.seed (s : Sensor) (v : Int) : Sensor := { s with baseline := v * 256, seeded := true }

/-- An update: the difference shifted right, rounding toward minus infinity, is added (R51). -/
def Sensor.update (s : Sensor) (v : Int) : Sensor := { s with baseline := s.baseline + (v * 256 - s.baseline) >>> s.shift }

/-- The deviation of a value from the baseline as it stands (R52). -/
def Sensor.deviation (s : Sensor) (v : Int) : Int :=
  match s.kind with
  | .pressure => s.baselineValue - v
  | .flow => (v.natAbs : Int) - (s.baselineValue.natAbs : Int)

/-- The deviation exceeds the threshold (R52). -/
def Sensor.exceeds (s : Sensor) (d : Int) : Bool := decide ((s.threshold : Int) < d)

/-- The deviation is below half the threshold, truncated (R52). -/
def Sensor.belowHalf (s : Sensor) (d : Int) : Bool := decide (d < ((s.threshold / 2 : Nat) : Int))

/-! ### The state machine (R53 to R57) -/

/-- A sensor that enters LEARNING, or starts it again: nothing seeded, the learning count to be spent, no persistence timer, last
deviation 0 (R52, R53, R60). The baseline, of which R60 says nothing, stays as it stood until a GOOD sample seeds it: the model's
reading (log 35). -/
def Sensor.restarted (s : Sensor) : Sensor :=
  { s with state := .learning, seeded := false, remaining := s.learningCount, persist := none, lastDeviation := 0 }

/-- A GOOD sample in LEARNING: it seeds or updates the baseline, and the sample that spends the count ends learning (R53). -/
def Sensor.learn (s : Sensor) (v : Int) : Sensor :=
  let s := if s.seeded then s.update v else s.seed v
  { s with remaining := s.remaining - 1, state := if s.remaining - 1 = 0 then .normal else .learning }

/-- A GOOD sample taken by the state machine (R53 to R57); the last GOOD value is set in every state (R48). -/
def Sensor.stepGood (s : Sensor) (now : Time) (v : Int) : Sensor :=
  let s := { s with lastGood := some v }
  let d := s.deviation v
  match s.state with
  | .learning => s.learn v
  | .lost => s.restarted.learn v
  | .normal =>
    if s.exceeds d then
      { s with lastDeviation := d, state := .excursion, persist := startTimer now s.persistence }
    else { s.update v with lastDeviation := d }
  | .excursion =>
    if s.exceeds d then { s with lastDeviation := d }
    else { s with lastDeviation := d, state := .normal, persist := none }
  | .tripped =>
    if s.belowHalf d then { s with lastDeviation := d, state := .normal } else { s with lastDeviation := d }
  | .unconfigured => s

/-! ### Intake (R44 to R49) -/

/-- The loss timer restarted with the full loss timeout (R49). -/
def Sensor.refreshed (s : Sensor) (now : Time) : Sensor := { s with loss := startTimer now s.lossTimeout }

/-- A BAD_DIGIT sample (R47). -/
def Sensor.takeBadDigit (s : Sensor) : Sensor := { s with badDigit := satInc s.badDigit }

/-- A BAD sample (R48). -/
def Sensor.takeBad (s : Sensor) : Sensor := { s with bad := satInc s.bad }

/-- A DOUBTFUL sample: the loss timer is refreshed, but not started in LOST (R48, R49). -/
def Sensor.takeDoubtful (s : Sensor) (now : Time) : Sensor :=
  let s := { s with doubtful := satInc s.doubtful }
  if s.state = .lost then s else s.refreshed now

/-- A GOOD sample: the loss timer is refreshed before the state step (R48). -/
def Sensor.takeGood (s : Sensor) (now : Time) (v : Int) : Sensor :=
  ({ s with good := satInc s.good }.refreshed now).stepGood now v

/-- A sample record taken through its stages (R44 to R48). -/
def takeSample (e : Env) (slot : Nat) (w0 w1 : Word) (n : Net) : Net :=
  let f := sampleFields w0 w1
  let refuse := fun (why : RecordReason) => recordError e .sample why { slot := some slot, id := some f.id } n
  let s := n.sensor slot
  if f.id ≠ slot then refuse .slotMismatch
  else if f.quality = 3 then refuse .fieldRange
  else if !n.live || s.tag != .adopted then { n with dropped := satInc n.dropped }
  else if s.lastSequence = some f.sequence then modSensor slot (fun s => { s with repeats := satInc s.repeats }) n
  else
    let s := { s with lastSequence := some f.sequence }
    match sampleValue s.format f.word0 with
    | none => n.setSensor slot s.takeBadDigit
    | some v =>
      if f.quality = 2 then n.setSensor slot s.takeBad
      else if f.quality = 1 then n.setSensor slot (s.takeDoubtful e.time)
      else noteSensors [slot] (n.setSensor slot (s.takeGood e.time v))

/-! ### Expiries (R49, R55) -/

/-- The loss timer runs in these four states (R49). -/
def Sensor.supervised (s : Sensor) : Bool :=
  s.state = .learning || s.state = .normal || s.state = .excursion || s.state = .tripped

/-- Expiry of the loss timer: LOST, with the persistence timer stopped and the lost latch set (R49). -/
def loseSensor (e : Env) (k : Nat) (n : Net) : Net :=
  let s := n.sensor k
  if s.supervised && timerDue s.loss e.time then
    noteSensors [k] (raise e .sensorLost k 0
      (n.setSensor k { s with state := .lost, loss := none, persist := none, latch := true }))
  else n

/-- Expiry of the persistence timer: TRIPPED (R55). -/
def tripSensor (e : Env) (k : Nat) (n : Net) : Net :=
  let s := n.sensor k
  if s.state = .excursion && timerDue s.persist e.time then
    noteSensors [k] (n.setSensor k { s with state := .tripped, persist := none })
  else n

/-! ### Lost latches (R50) -/

/-- Every sensor changed by `f`. -/
def mapSensors (f : Nat → Sensor → Sensor) (n : Net) : Net := { n with sensors := mapTable Sensor.atReset f n.sensors }

/-- A lost-latch word: sensor 32 × k + b in bit b (R50). -/
def latchWord (n : Net) (k : Nat) : Word :=
  pack ((List.range 32).map fun b => (1, if (n.sensor (32 * k + b)).latch then 1 else 0))

/-- A read of latch word k clears each latch in it whose sensor is not LOST (R50). -/
def clearLatches (k : Nat) (n : Net) : Net :=
  mapSensors (fun i s => if i / 32 = k ∧ s.state ≠ .lost then { s with latch := false } else s) n

/-! ### Re-baselining (R60, R61) -/

/-- A sensor that re-baselining changes: ADOPTED, and in one of the four running states (R60). -/
def Sensor.rebaselines (s : Sensor) : Bool := s.tag = .adopted && s.supervised

/-- The number of sensors that re-baselining of the chosen ones changes, those already in LEARNING included (R61). -/
def rebaselineCount (p : Sensor → Bool) (n : Net) : Nat := (idsWhere (fun _ s => p s && s.rebaselines) n.sensors).length

/-- Re-baselining of the chosen sensors as one event; a notice for each whose state changes (R58, R60; log 12). A score is
re-evaluated from the re-baselined sensors before their notices (R75), so what they showed is dropped at once (log 10). -/
def rebaseline (p : Sensor → Bool) (n : Net) : Net :=
  noteSensors (idsWhere (fun _ s => p s && s.rebaselines && s.state != .learning) n.sensors)
    (mapSensors (fun _ s => if p s && s.rebaselines then { s.restarted with shown := false } else s) n)

/-! ### The image notices (R43) -/

/-- The runtime record at device reset, beside the record's fields (R43). -/
def Sensor.cleared (s : Sensor) : Sensor :=
  { tag := s.tag, kind := s.kind, format := s.format, site := s.site, cell := s.cell, threshold := s.threshold
    persistence := s.persistence, lossTimeout := s.lossTimeout, shift := s.shift, learningCount := s.learningCount }

/-- The "image closed" notice (R43). -/
def closeSensors (n : Net) : Net := mapSensors (fun _ s => s.cleared) n

/-- The "image live" notice: every ADOPTED sensor begins LEARNING with its loss timer started (R43). -/
def openSensors (e : Env) (n : Net) : Net :=
  mapSensors (fun _ s => if s.tag = .adopted then s.cleared.restarted.refreshed e.time else s) n

end Sys2Proof.Machine
end

