-- ==== Sys2Proof/Machine/Cells.lean ====
section
/-! DEFINITION. The Cell Evaluator (chapter 4): imbalance, cell states, suspension, the evidence score and the Locator. The score
counts what the sensors' last notices showed (R71); everything else reads the sensor records as they stand (R64, R72; log 10). -/

namespace Sys2Proof.Machine

/-! ### Imbalance (R64) -/

/-- What a meter contributes to the sum; nothing while its sensor is not judged, has no GOOD value or is masked (R64). -/
def meterValue (n : Net) (m : Meter) : Option Int :=
  let s := n.sensor m.sensor
  if (s.state = .normal || s.state = .excursion || s.state = .tripped) && !masked n s then
    s.lastGood.map fun v => if m.outward then -v else v
  else none

/-- The sum over a meter list; nothing when one meter contributes nothing (R64). -/
def meteredSum (n : Net) : List Meter → Option Int
  | [] => some 0
  | m :: ms =>
    match meterValue n m, meteredSum n ms with
    | some v, some t => some (v + t)
    | _, _ => none

/-- The imbalance, while it is known (R64). -/
def imbalanceOf (n : Net) (c : Cell) : Option Int :=
  if c.meters.isEmpty then none else (meteredSum n c.meters).map fun t => t - c.demand

/-! ### Cell states (R65 to R68) -/

/-- Above: known and greater than the imbalance threshold (section 4.3). -/
def Cell.above (c : Cell) : Bool := c.known && decide ((c.threshold : Int) < c.imbalance)

/-- Below half: known and not greater than the threshold divided by 2 and truncated, or unknown (section 4.3). -/
def Cell.belowHalf (c : Cell) : Bool := !c.known || decide (c.imbalance ≤ ((c.threshold / 2 : Nat) : Int))

/-- The state rules applied to a new imbalance (R66, R68). -/
def Cell.judged (c : Cell) (now : Time) : Cell :=
  match c.state with
  | .quiet => if c.above then { c with state := .watch, persist := startTimer now c.persistence } else c
  | .watch => if c.above then c else { c with state := .quiet, persist := none }
  | .tripped => if c.belowHalf then { c with state := .quiet } else c
  | .suspended | .idle => c

/-- A cell's imbalance is recomputed and its state rules are applied (R65 to R68); a cell in IDLE ignores it (R63). -/
def recompute (e : Env) (k : Nat) (n : Net) : Net :=
  let c := n.cell k
  let im := imbalanceOf n c
  if c.state = .idle then n
  else n.setCell k ({ c with known := im.isSome, imbalance := im.getD 0 }.judged e.time)

/-! ### Evidence (R71) -/

/-- A sensor that counts toward the score of its cell: ADOPTED, in the cell, and shown TRIPPED and not masked by its last notice
(R71). -/
def countsFor (k : Nat) (s : Sensor) : Bool := s.tag = .adopted && s.cell == k && s.shown

/-- The evidence score of a cell (R71). -/
def scoreOf (n : Net) (k : Nat) (c : Cell) : Nat :=
  match c.state with
  | .idle | .suspended => 0
  | .tripped => min (2 + (idsWhere (fun _ s => countsFor k s) n.sensors).length) Config.scoreLimit
  | .quiet | .watch => min (idsWhere (fun _ s => countsFor k s) n.sensors).length Config.scoreLimit

/-- The score re-evaluated without a Locator run. -/
def rescore (k : Nat) (n : Net) : Net := modCell k (fun c => { c with score := scoreOf n k c }) n

/-! ### Suspension (R69, R70) -/

/-- The states of an incident that suspends the cells it names (R69). -/
def IncidentState.suspends : IncidentState → Bool
  | .searching | .checking | .held | .closing => true
  | _ => false

/-- The suspension condition of a cell (R69). -/
def suspensionHolds (n : Net) (k : Nat) : Bool :=
  incidentIds.any fun i => (n.incident i).state.suspends && (n.incident i).origins.any fun o => o.cell == some k

/-- The suspension of a cell begins (R69). -/
def Cell.suspend (c : Cell) : Cell := { c with state := .suspended, persist := none, score := 0 }

/-- The end of a cell's suspension: QUIET (R70). -/
def Cell.resume (c : Cell) : Cell := { c with state := .quiet }

/-- The cells in QUIET, WATCH or TRIPPED (R69, R76). -/
def Cell.active (c : Cell) : Bool := c.state = .quiet || c.state = .watch || c.state = .tripped

/-- The suspension condition of every ADOPTED cell is re-evaluated (R69); the cells whose suspension ends are re-baselined together,
recomputed and scored (R70; log 29). -/
def reevaluate (e : Env) (n : Net) : Net :=
  let begins := idsWhere (fun k c => c.tag = .adopted && c.active && suspensionHolds n k) n.cells
  let ends := idsWhere (fun k c => c.tag = .adopted && c.state = .suspended && !suspensionHolds n k) n.cells
  let n := begins.foldl (fun n k => modCell k Cell.suspend n) n
  let n := ends.foldl (fun n k => modCell k Cell.resume n) n
  let n := if ends.isEmpty then n else rebaseline (fun s => decide (s.cell ∈ ends)) n
  ends.foldl (fun n k => rescore k (recompute e k n)) n

/-! ### The Locator (R73 to R77) -/

/-- What the Locator finds for a candidate (R73). -/
inductive Finding where
  | usable (ratio : Nat)
  | zeroBaseline
  | ratioRange
  deriving DecidableEq, Repr

/-- The ratio of a candidate, or why it is skipped (R73). -/
def Sensor.finding (s : Sensor) : Finding :=
  if s.baselineValue ≤ 0 then .zeroBaseline
  else
    let q := (s.lastDeviation * 1000).tdiv s.baselineValue
    if 1000 < q then .ratioRange else .usable q.toNat

/-- The candidates of a cell in ascending id (R73). -/
def candidates (n : Net) (k : Nat) : List Nat :=
  idsWhere (fun _ s => s.tag = .adopted && s.kind = .pressure && s.cell == k && !masked n s &&
    (s.state = .excursion || s.state = .tripped)) n.sensors

/-- The findings of a run: the winner with its ratio, and the two skip counts (R74). -/
structure Findings where
  winner : Option (Nat × Nat) := none
  zeroBaseline : Nat := 0
  ratioRange : Nat := 0
  deriving DecidableEq, Repr

/-- A candidate taken: the larger ratio wins, and between equal ratios the lower id (R74). -/
def Findings.take (f : Findings) (id : Nat) : Finding → Findings
  | .zeroBaseline => { f with zeroBaseline := f.zeroBaseline + 1 }
  | .ratioRange => { f with ratioRange := f.ratioRange + 1 }
  | .usable r =>
    match f.winner with
    | none => { f with winner := some (id, r) }
    | some (_, best) => if best < r then { f with winner := some (id, r) } else f

/-- The findings for a cell (R73, R74). -/
def findings (n : Net) (k : Nat) : Findings :=
  (candidates n k).foldl (fun f id => f.take id (n.sensor id).finding) {}

/-- The winning ratio, or 0 (R74). -/
def Findings.ratio (f : Findings) : Nat :=
  match f.winner with
  | some (_, r) => r
  | none => 0

/-- The origin of a run: the winner's site, else the centre node (R74). -/
def originOf (n : Net) (c : Cell) (f : Findings) : Nat :=
  match f.winner with
  | some (s, _) => (n.sensor s).site
  | none => c.centre

/-- The last location at the end of a run (R74). -/
def Findings.location (f : Findings) (now : Time) (origin : Nat) (outcome : LocationOutcome) (incident : Option Nat) : Location :=
  ⟨outcome, now, origin, f.winner.map Prod.fst, f.ratio, f.zeroBaseline, f.ratioRange, incident⟩

/-- The location note that an opening carries (R77). -/
def Findings.note (f : Findings) : LocationNote := ⟨f.winner.map Prod.fst, f.ratio, f.zeroBaseline + f.ratioRange⟩

/-- A Locator run for a cell: absorption (R75), no free incident (R76) or opening (R77). -/
def locate (e : Env) (k : Nat) (n : Net) : Net :=
  let c := n.cell k
  let f := findings n k
  let origin := originOf n c f
  match (n.node origin).owner with
  | some w =>
    rescore k (rebaseline (fun s => s.cell == k) (n.setCell k { c with
      state := .quiet, persist := none, absorbed := satInc c.absorbed
      location := some (f.location e.time origin .absorbed (some w.incident)) }))
  | none =>
    match lowestFree n with
    | none =>
      raise e .noIncident k origin
        (n.setCell k { c with location := some (f.location e.time origin .noIncident none) })
    | some i =>
      reevaluate e (openIncident e i ⟨origin, some k, c.policy, c.holdExpiry, f.note⟩
        (n.setCell k { c with location := some (f.location e.time origin .opened (some i)) }))

/-- The score re-evaluated; the Locator runs when it rises to the required score, outside a suspension (R71, R72). -/
def evaluate (e : Env) (k : Nat) (n : Net) : Net :=
  let before := n.cell k
  let n := rescore k n
  if before.active && decide (before.score < before.required) && decide (before.required ≤ (n.cell k).score) then locate e k n
  else n

/-- The sweep: the Locator for every waiting cell in ascending id, while an incident is FREE (R76). -/
def sweep (e : Env) (n : Net) : Net :=
  (idsWhere (fun _ c => c.tag = .adopted) n.cells).foldl (fun n k =>
    if (n.cell k).active && decide ((n.cell k).required ≤ (n.cell k).score) && (lowestFree n).isSome then locate e k n
    else n) n

/-! ### Notices taken (R65, R69, R76) -/

/-- An incident notice is taken: suspensions, then the sweep when it reports an entry into FREE (R69, R70, R76). That the sweep
runs before any sensor notice of the event is the model's choice (log 32). -/
def takeIncidentNotice (e : Env) (freed : Bool) (n : Net) : Net := if freed then sweep e (reevaluate e n) else reevaluate e n

/-- A cell is taken whole for a sensor notice (R65). -/
def takeCell (e : Env) (sensor k : Nat) (n : Net) : Net :=
  evaluate e k (if (n.cell k).meters.any (fun m => m.sensor == sensor) then recompute e k n else n)

/-- The ADOPTED cells that a sensor's notice concerns, ascending (R58, R65). -/
def cellsOf (n : Net) (sensor : Nat) : List Nat :=
  idsWhere (fun k c => c.tag = .adopted &&
    ((n.sensor sensor).cell == k || c.meters.any fun m => m.sensor == sensor)) n.cells

/-- A sensor notice shows the sensor as it stands when the notice is applied (R58); that a change made by an earlier notice of the
same event is shown with it is the model's choice (log 36). -/
def showSensor (sensor : Nat) (n : Net) : Net :=
  modSensor sensor (fun s => { s with shown := s.state = .tripped && !masked n s }) n

/-- A sensor notice is applied to its cells in ascending id (R65). -/
def takeSensorNotice (e : Env) (sensor : Nat) (n : Net) : Net :=
  (cellsOf n sensor).foldl (fun n k => takeCell e sensor k n) (showSensor sensor n)

/-- Expiry of a cell's persistence timer: TRIPPED (R67). -/
def tripCell (e : Env) (k : Nat) (n : Net) : Net :=
  let c := n.cell k
  if c.state = .watch && timerDue c.persist e.time then
    evaluate e k (n.setCell k { c with state := .tripped, persist := none })
  else n

/-- An accepted SET_DEMAND (R78). -/
def changeDemand (e : Env) (k : Nat) (v : Int) (n : Net) : Net :=
  evaluate e k (recompute e k (modCell k (fun c => { c with demand := v }) n))

/-! ### The image notices (R63) -/

/-- The runtime record at the "image closed" notice, beside the record's fields and the meter list (R63). -/
def Cell.cleared (c : Cell) : Cell :=
  { tag := c.tag, threshold := c.threshold, persistence := c.persistence, required := c.required, policy := c.policy
    holdExpiry := c.holdExpiry, centre := c.centre, demand := c.demand, meters := c.meters }

/-- Every cell changed by `f`. -/
def mapCells (f : Nat → Cell → Cell) (n : Net) : Net := { n with cells := mapTable Cell.atReset f n.cells }

/-- The "image closed" notice (R63). -/
def closeCells (n : Net) : Net := mapCells (fun _ c => c.cleared) n

/-- The "image live" notice: every ADOPTED cell becomes QUIET, its absorbed count unchanged (R63). -/
def openCells (n : Net) : Net :=
  mapCells (fun _ c => if c.tag = .adopted then { c.cleared with state := .quiet, absorbed := c.absorbed } else c) n

end Sys2Proof.Machine
end

