-- ==== Sys2Proof/Machine/ImageStore.lean ====
section
/-! DEFINITION. The Image Store (chapter 1): image records, adoption, the cross-check and reopening. -/

namespace Sys2Proof.Machine

/-! ### Image records (R9, R10, R193) -/

/-- The seven record kinds (R9, R197). -/
inductive ImageKind where
  | globals | node | pipe | valve | sensor | cell | cellMeter
  deriving DecidableEq, Repr

/-- An image record taken apart (R193). -/
structure ImageRecord where
  w0 : Word
  w1 : Word
  w2 : Word
  kind : Nat
  delete : Bool
  id : Nat
  deriving DecidableEq, Repr

def imageRecordOf (w0 w1 w2 w3 : Word) : ImageRecord := ⟨w0, w1, w2, field w3 0 4, flagBit w3 7, field w3 16 16⟩

/-- The kind of a code (R197). -/
def ImageKind.ofCode : Nat → Option ImageKind
  | 1 => some .globals
  | 2 => some .node
  | 3 => some .pipe
  | 4 => some .valve
  | 5 => some .sensor
  | 6 => some .cell
  | 7 => some .cellMeter
  | _ => none

/-- The topology half is GLOBAL, NODE, PIPE and VALVE (R9). -/
def ImageKind.topology : ImageKind → Bool
  | .globals | .node | .pipe | .valve => true
  | .sensor | .cell | .cellMeter => false

/-- The own id is within the range of its table; GLOBAL has none (R2 to R6, R9, R193). -/
def ImageKind.idInRange (k : ImageKind) (id : Nat) : Bool :=
  match k with
  | .globals => true
  | .node => decide (id < Config.nodeCount)
  | .pipe => decide (id < Config.pipeCount)
  | .valve => decide (id < Config.valveCount)
  | .sensor => decide (id < Config.sensorCount)
  | .cell | .cellMeter => decide (id < Config.cellCount)

/-- The half's flag and its marker (R9). -/
def halfAdopted (n : Net) (k : ImageKind) : Bool := if k.topology then n.topologyAdopted else n.sensorsAdopted
def halfMarker (n : Net) (k : ImageKind) : Marker := if k.topology then n.topologyMarker else n.sensorsMarker

/-- A value within a range, both ends included. -/
def within (lo hi v : Nat) : Bool := decide (lo ≤ v) && decide (v ≤ hi)

/-- The sensor and the orientation of a CELL_METER record (R193). -/
def ImageRecord.meterSensor (r : ImageRecord) : Nat := field r.w0 0 16
def ImageRecord.orientation (r : ImageRecord) : Nat := field r.w0 16 2

/-- The crossover and the required score as stored: 0 stands for 150 and for 3 (R11). -/
def storedCrossover (v : Nat) : Nat := if v = 0 then 150 else v
def storedRequired (v : Nat) : Nat := if v = 0 then 3 else v

/-- Every field is within its range (R4 to R8, R10, R193). -/
def ImageRecord.fieldsInRange (r : ImageRecord) : ImageKind → Bool
  | .globals =>
    within 0 50 (field r.w0 0 8) && within 0 100 (field r.w0 8 8) && within 1 50 (field r.w0 16 8) &&
      within 5 100 (field r.w0 24 8) && within 10 600 (field r.w1 0 16) && within 10 600 (field r.w1 16 16) &&
      within 5 200 (field r.w2 0 16) && within 110 400 (field r.w2 16 16)
  | .node => within 0 1 (field r.w0 0 2)
  | .pipe => true
  | .valve =>
    within 1 8 (field r.w1 0 4) && within 0 1 (field r.w1 4 2) && within 2 16 (field r.w1 8 5) &&
      within 50 500 (storedCrossover (field r.w1 16 10)) && within 10 3600 (field r.w2 0 16)
  | .sensor =>
    within 0 1 (field r.w0 0 2) && within 0 1 (field r.w0 2 2) && within 2 8 (field r.w1 8 4) &&
      within 1 32767 (field r.w1 16 15) && within 1 600 (field r.w2 0 10) && within 10 3000 (field r.w2 10 12) &&
      within 4 64 (field r.w2 22 7)
  | .cell =>
    within 1 65535 (field r.w0 0 16) && within 1 600 (field r.w0 16 10) && within 0 6000 (field r.w1 0 13) &&
      decide (-1000000 ≤ signed32 r.w2) && decide (signed32 r.w2 ≤ 1000000)
  | .cellMeter => within 0 1023 r.meterSensor && within 1 2 r.orientation

/-- The entry that a delete record concerns exists: its tag is STAGED; for CELL_METER the cell is STAGED and its list holds the
sensor (R12, R13). -/
def deletable (n : Net) (k : ImageKind) (r : ImageRecord) : Bool :=
  match k with
  | .globals => n.globals.tag = .staged
  | .node => (n.node r.id).tag = .staged
  | .pipe => (n.pipe r.id).tag = .staged
  | .valve => (n.valve r.id).tag = .staged
  | .sensor => (n.sensor r.id).tag = .staged
  | .cell => (n.cell r.id).tag = .staged
  | .cellMeter => (n.cell r.id).tag = .staged && (n.cell r.id).meters.any fun m => m.sensor == r.meterSensor

/-- Checks 7 to 9, for CELL_METER only (R10). -/
def meterRefusal (n : Net) (r : ImageRecord) : Option RecordReason :=
  let c := n.cell r.id
  if c.tag = .empty then some .noEntry
  else if c.meters.any fun m => m.sensor == r.meterSensor then some .duplicate
  else if Config.maxMeters ≤ c.meters.length then some .listFull
  else none

/-- The first check that fails, if one does (R10). -/
def imageRefusal (n : Net) (r : ImageRecord) : Option RecordReason :=
  match ImageKind.ofCode r.kind with
  | none => some .badKind
  | some k =>
    if !k.idInRange r.id then some .fieldRange
    else if halfAdopted n k then some .adopted
    else if halfMarker n k ≠ .none then some .adopting
    else if r.delete then (if deletable n k r then none else some .noEntry)
    else if !r.fieldsInRange k then some .fieldRange
    else if k = .cellMeter then meterRefusal n r
    else none

/-! ### Staging (R11 to R13) -/

def boolOf (v : Nat) : Bool := v == 1

/-- The parameters of a GLOBAL record (R193). -/
def ImageRecord.params (r : ImageRecord) : Params where
  closedTolerance := field r.w0 0 8
  openTolerance := field r.w0 8 8
  progressStep := field r.w0 16 8
  reverseTolerance := field r.w0 24 8
  progressWindow := field r.w1 0 16
  pickupTimeout := field r.w1 16 16
  breachMargin := field r.w2 0 16
  deadlineMargin := field r.w2 16 16

/-- A node entry with the fields of a NODE record (R2, R193). -/
def ImageRecord.stageNode (r : ImageRecord) (x : Node) : Node :=
  { x with tag := .staged, kind := if field r.w0 0 2 = 1 then .source else .junction, guarded := flagBit r.w0 8 }

/-- A pipe entry with the fields of a PIPE record (R3, R193). -/
def ImageRecord.stagePipe (r : ImageRecord) (x : Pipe) : Pipe :=
  { x with tag := .staged, endA := field r.w0 0 12, endB := field r.w0 16 12 }

/-- A valve entry with the fields of a VALVE record (R4, R193). -/
def ImageRecord.stageValve (r : ImageRecord) (x : Valve) : Valve :=
  { x with
    tag := .staged
    endA := field r.w0 0 12
    endB := field r.w0 16 12
    diameter := field r.w1 0 4
    normal := if field r.w1 4 2 = 1 then .closed else .opened
    divisor := field r.w1 8 5
    crossover := storedCrossover (field r.w1 16 10)
    strokeTime := field r.w2 0 16 }

/-- A sensor entry with the fields of a SENSOR record (R5, R193). -/
def ImageRecord.stageSensor (r : ImageRecord) (x : Sensor) : Sensor :=
  { x with
    tag := .staged
    kind := if field r.w0 0 2 = 1 then .flow else .pressure
    format := if field r.w0 2 2 = 1 then .decimal else .binary
    site := field r.w0 16 13
    cell := field r.w1 0 6
    shift := field r.w1 8 4
    threshold := field r.w1 16 15
    persistence := field r.w2 0 10
    lossTimeout := field r.w2 10 12
    learningCount := field r.w2 22 7 }

/-- A cell entry with the fields of a CELL record; the meter list stays (R6, R7, R193). -/
def ImageRecord.stageCell (r : ImageRecord) (x : Cell) : Cell :=
  { x with
    tag := .staged
    threshold := field r.w0 0 16
    persistence := field r.w0 16 10
    required := storedRequired (field r.w0 26 4)
    policy := if flagBit r.w0 30 then .confirm else .auto
    holdExpiry := field r.w1 0 13
    centre := field r.w1 16 16
    demand := signed32 r.w2 }

/-- An accepted record that is no delete writes its fields, or appends its meter (R11, R13). -/
def stageRecord (k : ImageKind) (r : ImageRecord) (n : Net) : Net :=
  match k with
  | .globals => { n with globals := ⟨.staged, r.params⟩ }
  | .node => modNode r.id r.stageNode n
  | .pipe => modPipe r.id r.stagePipe n
  | .valve => modValve r.id r.stageValve n
  | .sensor => modSensor r.id r.stageSensor n
  | .cell => modCell r.id r.stageCell n
  | .cellMeter => modCell r.id (fun c => { c with meters := c.meters ++ [⟨r.meterSensor, r.orientation == 2⟩] }) n

/-- An accepted delete record empties its entry, or removes its meter (R12, R13). -/
def deleteRecord (k : ImageKind) (r : ImageRecord) (n : Net) : Net :=
  match k with
  | .globals => { n with globals := {} }
  | .node => n.setNode r.id {}
  | .pipe => n.setPipe r.id {}
  | .valve => n.setValve r.id {}
  | .sensor => n.setSensor r.id {}
  | .cell => n.setCell r.id {}
  | .cellMeter => modCell r.id (fun c => { c with meters := c.meters.filter fun m => m.sensor != r.meterSensor }) n

/-- A completed image record is accepted or refused (R10 to R14). -/
def takeImageRecord (e : Env) (slot : Nat) (w0 w1 w2 w3 : Word) (n : Net) : Net :=
  let r := imageRecordOf w0 w1 w2 w3
  match imageRefusal n r, ImageKind.ofCode r.kind with
  | none, some k => if r.delete then deleteRecord k r n else stageRecord k r n
  | some why, _ => recordError e .image why { slot := some slot, kind := some r.kind, id := some r.id } n
  | none, none => n

/-! ### Validation (R17, R19, R20) -/

/-- What a failed check reports (R16). -/
structure Failure where
  reason : AdoptionReason
  table : AdoptionTable
  id : Option Nat
  second : Option Nat
  deriving DecidableEq, Repr

def stagedNode (n : Net) (k : Nat) : Bool := (n.node k).tag = .staged

/-- Check 1 for one pair of ends, end A before end B (R17). -/
def missingEnd (n : Net) (table : AdoptionTable) (id a b : Nat) : Option Failure :=
  if !stagedNode n a then some ⟨.endMissing, table, some id, some a⟩
  else if !stagedNode n b then some ⟨.endMissing, table, some id, some b⟩
  else none

/-- Check 2 for one pair of ends (R17). -/
def selfLoop (table : AdoptionTable) (id a b : Nat) : Option Failure :=
  if a = b then some ⟨.selfLoop, table, some id, none⟩ else none

/-- The STAGED pipes and then the STAGED valves, each ascending, with their ends (R17). -/
def stagedPipes (n : Net) : List (Nat × Pipe) := n.pipes.filter fun kv => kv.2.tag = .staged
def stagedValves (n : Net) : List (Nat × Valve) := n.valves.filter fun kv => kv.2.tag = .staged

/-- The first failure of a check over pipes and then valves. -/
def overEdges (n : Net) (check : AdoptionTable → Nat → Nat → Nat → Option Failure) : Option Failure :=
  ((stagedPipes n).findSome? fun kv => check .pipe kv.1 kv.2.endA kv.2.endB).or
    ((stagedValves n).findSome? fun kv => check .valve kv.1 kv.2.endA kv.2.endB)

/-- The edge of a pipe or valve at node `k`, if it has an end there (R18). -/
def edgeAt (k : Nat) (kind : EdgeKind) (id a b : Nat) : Option Edge :=
  if a = k then some ⟨kind, id, b⟩ else if b = k then some ⟨kind, id, a⟩ else none

/-- The adjacency list of a node: pipes ascending, then valves ascending (R18). -/
def adjacency (n : Net) (k : Nat) : List Edge :=
  (stagedPipes n).filterMap (fun kv => edgeAt k .pipe kv.1 kv.2.endA kv.2.endB) ++
    (stagedValves n).filterMap (fun kv => edgeAt k .valve kv.1 kv.2.endA kv.2.endB)

/-- Check 3: the first node whose degree exceeds 8 (R17). -/
def degreeFailure (n : Net) : Option Failure :=
  ((idsWhere (fun k x => x.tag = .staged && decide (Config.maxEdges < (adjacency n k).length)) n.nodes).head?).map
    fun k => ⟨.degree, .node, some k, none⟩

/-- Check 4: at least 1 and at most 32 SOURCE nodes (R17). -/
def sourceFailure (n : Net) : Option Failure :=
  let sources := idsWhere (fun _ x => x.tag = .staged && x.kind = .source) n.nodes
  if sources.isEmpty then some ⟨.noSource, .none, none, none⟩
  else (sources[Config.maxSources]?).map fun k => ⟨.sourceCount, .node, some k, none⟩

/-- Check 5: at most 128 protected nodes (R17). -/
def protectedFailure (n : Net) : Option Failure :=
  ((idsWhere (fun _ x => x.tag = .staged && x.guarded) n.nodes)[Config.maxProtected]?).map
    fun k => ⟨.protectedCount, .node, some k, none⟩

/-- Topology validation: the first failure of its five checks (R17). -/
def topologyFailure (n : Net) : Option Failure :=
  (overEdges n (missingEnd n)).or ((overEdges n selfLoop).or
    ((degreeFailure n).or ((sourceFailure n).or (protectedFailure n))))

/-- Check 1 of sensor validation for one meter of a cell (R19). -/
def meterFailure (n : Net) (cell : Nat) (m : Meter) : Option Failure :=
  let s := n.sensor m.sensor
  if s.tag ≠ .staged then some ⟨.meterMissing, .cell, some cell, some m.sensor⟩
  else if s.kind = .pressure then some ⟨.meterNotFlow, .cell, some cell, some m.sensor⟩
  else none

/-- The STAGED cells, ascending. -/
def stagedCells (n : Net) : List (Nat × Cell) := n.cells.filter fun kv => kv.2.tag = .staged

/-- Sensor validation: the first failure of its two checks (R19). -/
def sensorsFailure (n : Net) : Option Failure :=
  ((stagedCells n).findSome? fun kv => kv.2.meters.findSome? (meterFailure n kv.1)).or
    ((stagedCells n).findSome? fun kv =>
      if Config.nodeCount ≤ kv.2.centre then some ⟨.centreRange, .cell, some kv.1, none⟩ else none)

/-- The site of a sensor is an ADOPTED node or pipe, by its kind (R20). -/
def siteAdopted (n : Net) (s : Sensor) : Bool :=
  match s.kind with
  | .pressure => (n.node s.site).tag = .adopted
  | .flow => (n.pipe s.site).tag = .adopted

/-- The ADOPTED sensors, ascending. -/
def adoptedSensors (n : Net) : List (Nat × Sensor) := n.sensors.filter fun kv => kv.2.tag = .adopted

/-- The cross-check: the first failure of its three checks (R20). -/
def crossFailure (n : Net) : Option Failure :=
  ((adoptedSensors n).findSome? fun kv =>
      if siteAdopted n kv.2 then none else some ⟨.siteMissing, .sensor, some kv.1, some kv.2.site⟩).or
    (((n.cells.filter fun kv => kv.2.tag = .adopted).findSome? fun kv =>
        if (n.node kv.2.centre).tag = .adopted then none
        else some ⟨.centreMissing, .cell, some kv.1, some kv.2.centre⟩).or
      ((adoptedSensors n).findSome? fun kv =>
        if (n.cell kv.2.cell).tag = .adopted then none
        else some ⟨.cellMissing, .sensor, some kv.1, some kv.2.cell⟩))

/-! ### Adoption and its reversal (R16, R18 to R22) -/

/-- The result record of a job (R16). -/
def resultOf (f : Option Failure) (now : Time) : AdoptionResult :=
  match f with
  | none => { outcome := .passed, time := now }
  | some f => ⟨.failed, f.reason, f.table, f.id, f.second, now⟩

/-- A tag turned from STAGED to ADOPTED. -/
def Tag.adopt : Tag → Tag
  | .staged => .adopted
  | t => t

/-- A tag turned from ADOPTED to STAGED. -/
def Tag.unadopt : Tag → Tag
  | .adopted => .staged
  | t => t

/-- The topology half is adopted: lists built, tags ADOPTED, flag set (R18). -/
def adoptTopologyHalf (n : Net) : Net :=
  { n with
    nodes := mapTable Node.atReset (fun k x => if x.tag = .staged then { x with tag := .adopted, edges := adjacency n k } else x)
      n.nodes
    pipes := mapTable Pipe.atReset (fun _ x => { x with tag := x.tag.adopt }) n.pipes
    valves := mapTable Valve.atReset (fun _ x => { x with tag := x.tag.adopt }) n.valves
    globals := { n.globals with tag := n.globals.tag.adopt }
    topologyAdopted := true }

/-- The sensor half is adopted (R19). -/
def adoptSensorsHalf (n : Net) : Net :=
  { n with
    sensors := mapTable Sensor.atReset (fun _ x => { x with tag := x.tag.adopt }) n.sensors
    cells := mapTable Cell.atReset (fun _ x => { x with tag := x.tag.adopt }) n.cells
    sensorsAdopted := true }

/-- Both halves return to STAGED: flags clear, lists discarded, GLOBAL out of force, LOADING (R20, R22). -/
def unadopt (n : Net) : Net :=
  { n with
    nodes := mapTable Node.atReset (fun _ x => { x with tag := x.tag.unadopt, edges := [] }) n.nodes
    pipes := mapTable Pipe.atReset (fun _ x => { x with tag := x.tag.unadopt }) n.pipes
    valves := mapTable Valve.atReset (fun _ x => { x with tag := x.tag.unadopt }) n.valves
    sensors := mapTable Sensor.atReset (fun _ x => { x with tag := x.tag.unadopt }) n.sensors
    cells := mapTable Cell.atReset (fun _ x => { x with tag := x.tag.unadopt }) n.cells
    globals := { n.globals with tag := n.globals.tag.unadopt }
    topologyAdopted := false
    sensorsAdopted := false
    live := false }

/-- The cross-check is queued when both halves are adopted (R18, R19). -/
def queueCross (e : Env) (n : Net) : Net := if n.topologyAdopted && n.sensorsAdopted then queueJob e .crossCheck n else n

/-- Topology validation completes (R16 to R18). -/
def completeTopology (e : Env) (n : Net) : Net :=
  let f := topologyFailure n
  let n := setMarker .adoptTopology .none { n with topologyResult := resultOf f e.time }
  let n := if f.isNone then queueCross e (adoptTopologyHalf n) else n
  finishJob e (countCompleted (raise e .image 0 n.topologyResult.outcome.code n))

/-- Sensor validation completes (R16, R19). -/
def completeSensors (e : Env) (n : Net) : Net :=
  let f := sensorsFailure n
  let n := setMarker .adoptSensors .none { n with sensorsResult := resultOf f e.time }
  let n := if f.isNone then queueCross e (adoptSensorsHalf n) else n
  finishJob e (countCompleted (raise e .image 1 n.sensorsResult.outcome.code n))

/-- The image becomes LIVE, and the "image live" notice is given (R21, R43, R63). -/
def goLive (e : Env) (n : Net) : Net := openCells (openSensors e { n with live := true })

/-- The cross-check completes (R16, R20, R21). -/
def completeCross (e : Env) (n : Net) : Net :=
  let f := crossFailure n
  let n := { n with crossResult := resultOf f e.time }
  let n := if f.isNone then goLive e n else unadopt n
  finishJob e (countCompleted (raise e .image 2 n.crossResult.outcome.code n))

/-- REOPEN_IMAGE is taken: the halves return to STAGED, and an image that was LIVE gives the "image closed" notice (R22). -/
def reopen (n : Net) : Net := if n.live then closeCells (closeSensors (unadopt n)) else unadopt n

/-- The lowest valve that stands in the way of a reopening (R22). -/
def reopenValve (n : Net) : Option Nat :=
  (idsWhere (fun _ x => x.tag != .empty &&
    !(x.control = .free && (x.motion = .rest || x.motion = .fault))) n.valves).head?

/-- The lowest incident that is not FREE (R22). -/
def reopenIncident (n : Net) : Option Nat := incidentIds.find? fun i => (n.incident i).state ≠ .free

/-- A job of any kind is queued or running, an abandoned one included (R22). -/
def reopenJob (n : Net) : Bool := n.walker.isSome || !n.jobs.isEmpty

end Sys2Proof.Machine
end

