-- ==== Sys2Proof/Machine/Control.lean ====
section
/-! DEFINITION. The Control Decoder and the thirteen requests (R177 to R179 and the owners' rules). -/

namespace Sys2Proof.Machine

/-- The thirteen requests (R179). -/
inductive Request where
  | adoptTopology | adoptSensors | reopenImage | isolateNode | confirm | release | retract | testValve | valveService
  | setDemand | rebaseline | setCause | ackCauses
  deriving DecidableEq, Repr

/-- The control kinds (R197). -/
def Request.ofCode : Nat → Option Request
  | 1 => some .adoptTopology
  | 2 => some .adoptSensors
  | 3 => some .reopenImage
  | 4 => some .isolateNode
  | 5 => some .confirm
  | 6 => some .release
  | 7 => some .retract
  | 8 => some .testValve
  | 9 => some .valveService
  | 10 => some .setDemand
  | 11 => some .rebaseline
  | 12 => some .setCause
  | 13 => some .ackCauses
  | _ => none

/-- The requests that require a LIVE image (R179). -/
def Request.needsLive : Request → Bool
  | .adoptTopology | .adoptSensors | .reopenImage | .setCause | .ackCauses => false
  | _ => true

/-- What a request leaves: the blocks, and the outcome and detail for the control result (R178). -/
structure Answer where
  net : Net
  outcome : ControlOutcome
  detail : Nat
  deriving DecidableEq, Repr

/-- A refusal leaves every record as it stands (R177). -/
def refuse (n : Net) (why : ControlOutcome) (detail : Nat := 0) : Answer := ⟨n, why, detail⟩

/-- An acceptance. -/
def accept (n : Net) (detail : Nat := 0) : Answer := ⟨n, .accepted, detail⟩

/-! ### Image Store (R15, R22) -/

/-- ADOPT_TOPOLOGY (R15). -/
def requestAdoptTopology (e : Env) (n : Net) : Answer :=
  if n.topologyAdopted then refuse n .alreadyAdopted
  else if n.topologyMarker ≠ .none then refuse n .busyImage
  else accept (queueJob e .adoptTopology n)

/-- ADOPT_SENSORS (R15). -/
def requestAdoptSensors (e : Env) (n : Net) : Answer :=
  if n.sensorsAdopted then refuse n .alreadyAdopted
  else if n.sensorsMarker ≠ .none then refuse n .busyImage
  else accept (queueJob e .adoptSensors n)

/-- The lowest incident with a waiting or running job (R22; log 18). -/
def jobIncident (n : Net) : Option Nat :=
  let jobs := n.jobs ++ (n.walker.map Running.job).toList
  incidentIds.find? fun i => jobs.any fun j => j.incident == some i

/-- The detail of a BUSY_IMAGE refusal of REOPEN_IMAGE (R198). -/
def busyDetail (condition id : Nat) : Nat := condition * 2 ^ 24 + id % 2 ^ 16

/-- REOPEN_IMAGE (R22). For a job of no incident the id of the detail is absent and reads 0xFFFF (R191, R198). -/
def requestReopenImage (n : Net) : Answer :=
  if reopenJob n then
    refuse n .busyImage (busyDetail 1 (idField (jobIncident n)))
  else match reopenIncident n with
    | some i => refuse n .busyImage (busyDetail 2 i)
    | none =>
      match reopenValve n with
      | some v => refuse n .busyImage (busyDetail 3 v)
      | none => accept (reopen n)

/-! ### Incident Table (R86, R90, R98, R137) -/

/-- ISOLATE_NODE (R86). -/
def requestIsolateNode (e : Env) (node : Nat) (n : Net) : Answer :=
  if Config.nodeCount ≤ node ∨ (n.node node).tag ≠ .adopted then refuse n .badId
  else if (n.node node).kind = .source then refuse n .badNode
  else if (n.node node).owner.isSome then refuse n .regionActive
  else match lowestFree n with
    | none => refuse n .noIncident
    | some i => accept (noteIncident i (openIncident e i ⟨node, none, .auto, 0, {}⟩ n)) i

/-- CONFIRM (R90). -/
def requestConfirm (e : Env) (i : Nat) (n : Net) : Answer :=
  if Config.incidentCount ≤ i then refuse n .badId
  else if (n.incident i).state ≠ .held then refuse n .wrongState (n.incident i).state.code
  else accept (enterClosing e i n) (requestsAtClosing n i).length

/-- RELEASE (R98). -/
def requestRelease (e : Env) (i : Nat) (n : Net) : Answer :=
  if Config.incidentCount ≤ i then refuse n .badId
  else if (n.incident i).state = .free ∨ (n.incident i).state = .releasing then
    refuse n .wrongState (n.incident i).state.code
  else accept (releaseIncident e i n) (releaseCount e i n)

/-- RETRACT (R137, R138). -/
def requestRetract (e : Env) (i : Nat) (n : Net) : Answer :=
  let r := n.incident i
  if Config.incidentCount ≤ i then refuse n .badId
  else if r.state ≠ .isolated then refuse n .wrongState r.state.code
  else if r.depth = 0 then refuse n .nothingToRetract
  else match r.outermost with
    | none => refuse n .nothingToRetract
    | some f =>
      match openCause n f with
      | some v => refuse n .causeOpen v
      | none => accept (retractFrame e i f n) (retractCount e i f n)

/-! ### Stroke Controller (R167, R175, R176) -/

/-- The id names no ADOPTED valve (R167, R175). -/
def noValve (n : Net) (v : Nat) : Bool := decide (Config.valveCount ≤ v) || (n.valve v).tag != .adopted

/-- The position of the stored report; 0 with none, which confirmed open excludes (R167). -/
def Valve.storedPosition (x : Valve) : Nat :=
  match x.report with
  | some r => r.position
  | none => 0

/-- TEST_VALVE (R167). -/
def requestTestValve (e : Env) (v depth : Nat) (n : Net) : Answer :=
  let x := n.valve v
  let p := n.params
  if noValve n v then refuse n .badId
  else if !within 20 300 depth then refuse n .badArgument
  else if !x.holders.isEmpty || x.motion != .rest || x.control != .free then refuse n .busyValve x.control.code
  else if x.health = .outOfService then refuse n .outOfService
  else if !x.confirmedOpen p then refuse n .notOpen
  else if depth ≤ p.closedTolerance ∨ x.storedPosition < depth then refuse n .badArgument
  else accept (startTest e v depth n) (x.storedPosition - depth)

/-- VALVE_SERVICE (R175, R176). That the refusals are judged in the order in which R175 names them is the model's choice (log 39). -/
def requestValveService (e : Env) (v direction : Nat) (n : Net) : Answer :=
  let x := n.valve v
  if noValve n v then refuse n .badId
  else if !within 1 2 direction then refuse n .badArgument
  else if !x.holders.isEmpty then refuse n .busyValve x.control.code
  else accept (if direction = 1 then serviceOut e v n else serviceIn v n) x.health.code

/-! ### Cell Evaluator and Sample Monitor (R61, R78) -/

/-- The id names no ADOPTED cell (R61, R78). -/
def noCell (n : Net) (k : Nat) : Bool := decide (Config.cellCount ≤ k) || (n.cell k).tag != .adopted

/-- SET_DEMAND (R78). That the id is judged before the value is the model's choice (log 39). -/
def requestSetDemand (e : Env) (k : Nat) (v : Int) (n : Net) : Answer :=
  if noCell n k then refuse n .badId
  else if v < -1000000 ∨ 1000000 < v then refuse n .badArgument
  else accept (changeDemand e k v n)

/-- The argument that names ALL (R193). -/
def allCells : Nat := 0xFFFFFFFF

/-- REBASELINE (R61). -/
def requestRebaseline (k : Nat) (n : Net) : Answer :=
  if k = allCells then accept (rebaseline (fun _ => true) n) (rebaselineCount (fun _ => true) n)
  else if noCell n k then refuse n .badId
  else accept (rebaseline (fun s => s.cell == k) n) (rebaselineCount (fun s => s.cell == k) n)

/-! ### Report Unit (R182, R184) -/

/-- SET_CAUSE (R182). -/
def requestSetCause (k level vector : Nat) (n : Net) : Answer :=
  if 15 < k ∨ 3 < level ∨ 255 < vector then refuse n .badArgument
  else accept (n.setCause k { n.cause k with level := level, vector := vector })

/-- The causes of a set whose flags are set, bit n for cause n (R184, R198). -/
def clearedCauses (w : Word) (n : Net) : Nat :=
  packFrom 0 (causeIds.map fun k => (1, if flagBit w k && (n.cause k).flag then 1 else 0))

/-- The flags of the named causes cleared (R184). -/
def clearCauses (w : Word) (n : Net) : Net :=
  { n with causes := mapTable CauseRecord.atReset (fun k r => if flagBit w k then { r with flag := false } else r) n.causes }

/-- ACK_CAUSES (R184). -/
def requestAckCauses (w : Word) (n : Net) : Answer := accept (clearCauses w n) (clearedCauses w n)

/-! ### Intake (R177, R178) -/

/-- A request handed to its owner with its argument words (R177, R193). -/
def handRequest (e : Env) (q : Request) (w0 w1 w2 : Word) (n : Net) : Answer :=
  match q with
  | .adoptTopology => requestAdoptTopology e n
  | .adoptSensors => requestAdoptSensors e n
  | .reopenImage => requestReopenImage n
  | .isolateNode => requestIsolateNode e w0.toNat n
  | .confirm => requestConfirm e w0.toNat n
  | .release => requestRelease e w0.toNat n
  | .retract => requestRetract e w0.toNat n
  | .testValve => requestTestValve e w0.toNat w1.toNat n
  | .valveService => requestValveService e w0.toNat w1.toNat n
  | .setDemand => requestSetDemand e w0.toNat (signed32 w1) n
  | .rebaseline => requestRebaseline w0.toNat n
  | .setCause => requestSetCause w0.toNat w1.toNat w2.toNat n
  | .ackCauses => requestAckCauses w0 n

/-- A control record judged by its stages (R177). -/
def judgeControl (e : Env) (kind : Nat) (w0 w1 w2 : Word) (n : Net) : Answer :=
  match Request.ofCode kind with
  | none => refuse n .unknownKind
  | some q => if q.needsLive && !n.live then refuse n .notLive else handRequest e q w0 w1 w2 n

/-- The control result of a record (R178). -/
def resultOfControl (w7 : Word) (a : Answer) (now : Time) : ControlResult where
  sequence := BitVec.ofNat 16 (field w7 16 16)
  kind := BitVec.ofNat 8 (field w7 0 8)
  outcome := a.outcome
  detail := BitVec.ofNat 32 a.detail
  time := now

end Sys2Proof.Machine
end

