-- ==== Sys2Proof/Machine/Report.lean ====
section
/-! DEFINITION. The report pages (R186 to R189, R194 to R196). -/

namespace Sys2Proof.Machine

/-! ### Field conventions (R191, R195) -/

def bit (b : Bool) : Nat := if b then 1 else 0

/-- An incident number in a field of 4 bits; absent reads 15 (R191). -/
def incidentField (v : Option Nat) : Nat := v.getD 15

/-- The expiry of a timer; 0 while it is stopped (R195). -/
def timerField : Option Time → Nat
  | some t => t.toNat
  | none => 0

/-- A time as a page word; absent reads 0 (R191). -/
def timeWord (t : Option Time) : Word := t.getD 0

/-- `count` words of ids, two to a word, the lower entry in bits 0 to 15; entries beyond the list read 0 (R196). -/
def pairWords (count : Nat) (ids : List Nat) : List Word :=
  (List.range count).map fun j => pack [(16, ids.getD (2 * j) 0), (16, ids.getD (2 * j + 1) 0)]

/-- A set of numbers below 8 as 8 bits, bit n for n (R196). -/
def setField (l : List Nat) : Nat := packFrom 0 ((List.range 8).map fun k => (1, bit (decide (k ∈ l))))

/-! ### Summary page (R187) -/

/-- Words 2 to 4: the parameters in force, as GLOBAL words 0 to 2 (R193). -/
def paramWords (p : Params) : List Word :=
  [ pack [(8, p.closedTolerance), (8, p.openTolerance), (8, p.progressStep), (8, p.reverseTolerance)],
    pack [(16, p.progressWindow), (16, p.pickupTimeout)],
    pack [(16, p.breachMargin), (16, p.deadlineMargin)] ]

/-- An adoption result (R16). -/
def adoptionWords (r : AdoptionResult) : List Word :=
  [ pack [(2, r.outcome.code), (5, r.reason.code), (3, r.table.code)], pack [(16, idField r.id), (16, idField r.second)], r.time ]

/-- The last-error fields (R185); window, reason, master code, record kind and word index read 0 while absent (log 20). -/
def lastErrorWords (l : LastError) : List Word :=
  [ pack [(2, (l.window.map Window.code).getD 0), (4, (l.reason.map RecordReason.code).getD 0),
      (2, (l.master.map BitVec.toNat).getD 0), (4, l.kind.getD 0), (3, l.word.getD 0), (1, bit l.slot.isSome),
      (1, bit l.word.isSome), (1, bit l.master.isSome), (1, bit l.kind.isSome), (1, bit l.id.isSome)],
    pack [(16, idField l.slot), (16, idField l.id)], l.time ]

/-- The running job's kind and incident; 0 and absent when the walker is idle (R197). -/
def runningFields (w : Option Running) : List (Nat × Nat) :=
  match w with
  | none => [(3, 0), (4, 15)]
  | some r => [(3, r.job.code), (4, match r.job with
    | .boundary i _ => i
    | .supply i _ => i
    | _ => 15)]

/-- Four words of a cause (R180). -/
def causeWords (r : CauseRecord) : List Word :=
  [pack [(1, bit r.flag), (2, r.level), (8, r.vector), (16, r.count)], r.time, r.subject, r.detail]

def summaryPage (s : State) : List Word :=
  let n := s.net
  let c := s.controlResult
  [ pack [(2, n.imageState.code), (1, bit n.topologyAdopted), (1, bit n.sensorsAdopted), (2, n.topologyMarker.code),
      (2, n.sensorsMarker.code), (2, n.globals.tag.code)],
    s.time ] ++
  paramWords n.params ++
  adoptionWords n.topologyResult ++ adoptionWords n.sensorsResult ++ adoptionWords n.crossResult ++
  [ pack [(16, c.sequence.toNat), (8, c.kind.toNat), (8, c.outcome.code)], c.detail, c.time,
    pack [(8, n.attention.vector), (23, 0), (1, bit n.attention.valid)],
    pack [(16, n.recordErrors), (16, n.dropped)] ] ++
  lastErrorWords n.lastError ++
  [ pack ((4, n.jobs.length) :: runningFields n.walker),
    pack [(16, n.jobsCompleted), (16, n.jobsStale)],
    pack [(16, n.jobsAbandoned)],
    pack [(12, n.queue.close.length), (12, n.queue.openUp.length)],
    pack [(12, n.queue.test.length), (4, n.slots.length), (2, largeInSlots n), (12, n.passedOver)],
    pack [(8, s.anch.toNat), (2, s.linkid.toNat)] ] ++
  causeIds.flatMap fun k => causeWords (n.cause k)

/-! ### Refusal list and lost latches (R189) -/

def refusalWords (r : Refused) : List Word :=
  [pack [(16, r.valve), (8, setField r.holders), (2, r.control.code)], r.word, r.time, 0]

/-- The refusal-list page (R189). The positions beyond the last entry are not listed, and so read 0 in every word, the valve's id
included: the model's choice (log 20). -/
def refusalPage (s : State) : List Word :=
  pack [(16, s.refusalCount), (4, s.refusals.length)] :: s.refusals.flatMap refusalWords

def latchPage (s : State) : List Word := (List.range 32).map (latchWord s.net)

/-! ### Incident pages (R188) -/

/-- An origin: node, cell with 255 for MANUAL, time (R196). The words beyond the last origin read 0: the model's choice (log 20). -/
def originWords (o : Origin) : List Word := [pack [(16, o.node), (8, o.cell.getD 255)], o.time]

/-- A boundary entry: the valve in bits 0 to 10 and the failed flag in bit 15 (R196). -/
def boundaryField (b : Boundary) : Nat := b.valve % 2 ^ 11 + (if b.failed then 2 ^ 15 else 0)

/-- Fourteen words of a frame (R196). The words beyond the last frame read 0: the model's choice (log 20). -/
def frameWords (f : Frame) : List Word :=
  [pack [(1, bit f.checked), (3, f.causes.length), (3, f.seeds.length), (5, f.boundary.length)]] ++
  pairWords 2 f.causes ++ pairWords 2 f.seeds ++ pairWords 8 (f.boundary.map boundaryField) ++
  [pack [(16, f.regionNodes), (16, f.regionPipes)]]

/-- A list of words cut or filled with zeros to a length (R196; of origins and frames beyond the last: log 20). -/
def padWords (len : Nat) (l : List Word) : List Word := (List.range len).map fun k => l.getD k 0

def incidentPage (s : State) (i : Nat) : List Word :=
  let r := s.net.incident i
  [ pack [(3, r.state.code), (1, r.policy.code), (2, r.holdReason.code), (3, r.failReason.code), (2, r.marker.code),
      (2, r.depth), (4, incidentField r.mergedInto), (3, r.origins.length), (4, r.pendingCauses.length), (8, r.cutCount)],
    pack [(16, r.generation.toNat), (16, r.unlisted)],
    pack [(13, r.holdExpiry), (7, r.reopen), (1, bit r.timeIsolated.isSome)],
    pack [(7, r.tally.opened), (7, r.tally.faulted), (7, r.tally.reclaimed), (10, r.note.ratio)],
    pack [(16, idField r.note.winner), (16, r.note.skips)],
    timeWord r.holdTimer, r.timeOpened, timeWord r.timeIsolated ] ++
  padWords 8 (r.origins.flatMap originWords) ++ pairWords 4 r.pendingCauses ++ pairWords 2 r.cutList ++
  padWords 56 (r.frames.flatMap frameWords)

/-! ### Cell pages (R189) -/

/-- The location fields of words 5 to 8: outcome, incident, ratio, time, origin, winner and the two skip counts (R74, R196;
absent: log 20). -/
def locationWords (absorbed : Nat) (l : Option Location) : List Word :=
  match l with
  | none => [pack [(16, absorbed), (2, 0), (4, 15), (10, 0)], 0, pack [(16, 0xFFFF), (16, 0xFFFF)], 0]
  | some l =>
    [ pack [(16, absorbed), (2, l.outcome.code), (4, incidentField l.incident), (10, l.ratio)], l.time,
      pack [(16, l.origin), (16, idField l.winner)], pack [(16, l.zeroBaseline), (16, l.ratioRange)] ]

/-- A meter entry: the sensor in bits 0 to 9 and the orientation in bit 15 (R196). The halves beyond the last meter read 0: the model's
choice (log 20). -/
def meterField (m : Meter) : Nat := m.sensor % 2 ^ 10 + (if m.outward then 2 ^ 15 else 0)

def cellPage (s : State) (k : Nat) : List Word :=
  let c := s.net.cell k
  [ pack [(2, c.tag.code), (3, c.state.code), (1, c.policy.code), (1, bit c.known), (4, c.required), (5, c.score),
      (4, c.meters.length), (10, c.persistence)],
    pack [(16, c.threshold), (13, c.holdExpiry)],
    pack [(16, c.centre), (10, timerField c.persist)],
    pack [(32, twos 32 c.demand)],
    pack [(32, twos 32 c.imbalance)] ] ++
  locationWords c.absorbed c.location ++ pairWords 6 (c.meters.map meterField)

/-! ### Sensor pages (R189) -/

def sensorPage (s : State) (k : Nat) : List Word :=
  let x := s.net.sensor k
  [ pack [(2, x.tag.code), (1, x.kind.code), (1, x.format.code), (3, x.state.code), (1, bit x.seeded),
      (1, bit (masked s.net x)), (1, bit x.latch), (1, bit x.lastSequence.isSome), (1, bit x.lastGood.isSome), (6, x.cell),
      (4, x.shift), (7, x.learningCount)],
    pack [(13, x.site), (15, x.threshold)],
    pack [(10, x.persistence), (12, x.lossTimeout), (7, x.remaining)],
    pack [(24, twos 24 x.baseline)],
    pack [(16, twos 16 x.baselineValue), (16, twos 16 (x.lastGood.getD 0))],
    pack [(16, (x.lastSequence.getD 0).toNat), (12, timerField x.loss)],
    pack [(17, twos 17 x.lastDeviation), (10, timerField x.persist)],
    pack [(16, x.good), (16, x.doubtful)],
    pack [(16, x.bad), (16, x.badDigit)],
    pack [(16, x.repeats)] ]

/-! ### Valve pages (R188) -/

/-- The detail of a test's ending: the fault reason for SEIZED and LINK, the abort cause for ABORTED (R196). -/
def testDetail (t : TestRecord) : Nat :=
  match t.result with
  | .seized | .link => t.fault.code
  | .aborted => t.abort.code
  | .none | .good => 0

/-- The report of a valve with no stored report: position absent, the rest 0 (R191). -/
def Report.absent : Report := ⟨1023, false, false, false, 0, 0⟩

/-- The image fields while no image is present (R196). -/
def Image.absent : Image := ⟨0, 0, .none, 0, .hold, false⟩

def valvePage (s : State) (v : Nat) : List Word :=
  let x := s.net.valve v
  let p := s.net.params
  let r := x.report.getD Report.absent
  let m := x.image.getD Image.absent
  [ pack [(16, x.imageSeq.toNat), (16, r.sequence.toNat)],
    pack [(16, x.repeats), (8, setField x.holders), (4, incidentField x.releaseOwner), (4, x.divisor - 1)],
    pack [(19, timerField x.deadline), (2, x.tag.code), (3, x.diameter - 1), (3, x.motion.code), (3, x.purpose.code),
      (2, x.health.code)],
    pack [(12, x.endA), (12, x.endB), (3, x.fault.code), (3, testEnding x.test.result x.test.leg), (2, x.control.code)],
    pack [(12, x.strokeTime), (10, m.target), (10, m.rate)],
    pack [(10, r.position), (10, timerField x.pickup), (10, timerField x.progress), (2, m.source.code)],
    pack [(10, x.reference), (10, x.best), (10, x.test.home), (1, x.normal.code), (1, bit x.seated)],
    pack [(9, x.crossover), (9, x.test.depth), (3, testDetail x.test), (1, x.phase.code), (1, bit (x.confirmedClosed p)),
      (1, bit (x.confirmedOpen p)), (1, bit m.awaiting), (1, bit x.image.isSome), (1, bit r.torque), (1, bit r.limitOpen),
      (1, bit r.limitClosed)],
    r.time,
    x.test.time ]

/-! ### The report window (R194, R196) -/

/-- The word of a report-window read at a word-aligned offset of the aperture; 0 in no page or beyond a page's words (R194). -/
def reportWord (s : State) (off : Nat) : Word :=
  if off < 0x20200 then (summaryPage s).getD ((off - 0x20000) / 4) 0
  else if off < 0x202C0 then (refusalPage s).getD ((off - 0x20200) / 4) 0
  else if off < 0x20300 then 0
  else if off < 0x20380 then (latchPage s).getD ((off - 0x20300) / 4) 0
  else if off < 0x20400 then 0
  else if off < 0x20E00 then (incidentPage s ((off - 0x20400) / 320)).getD ((off - 0x20400) % 320 / 4) 0
  else if off < 0x21E00 then (cellPage s ((off - 0x20E00) / 64)).getD ((off - 0x20E00) % 64 / 4) 0
  else if off < 0x2BE00 then (sensorPage s ((off - 0x21E00) / 40)).getD ((off - 0x21E00) % 40 / 4) 0
  else if off < 0x3FE00 then (valvePage s ((off - 0x2BE00) / 40)).getD ((off - 0x2BE00) % 40 / 4) 0
  else 0

/-- The lost-latch word that an offset names (R50, R196). -/
def latchWordAt (off : Nat) : Option Nat := if 0x20300 ≤ off ∧ off < 0x20380 then some ((off - 0x20300) / 4) else none

end Sys2Proof.Machine
end

