-- ==== Sys2Proof/Machine/Settle.lean ====
section
/-! DEFINITION. An event taken whole: the notices it gives are taken in their order, and ATTN is judged (R58, R81, R127, R145, R183;
log 23). -/

namespace Sys2Proof.Machine

/-- A valve notice is taken by every holding incident, in ascending number (R145). -/
def giveValveNotice (e : Env) (a : ValveNotice) (n : Net) : Net :=
  (n.valve a.valve).holders.foldl (fun n i => takeValveNotice e a i n) n

/-- The valve notices in the order given, at most `k` (R145; log 13). -/
def drainValves (e : Env) : Nat → Net → Net
  | 0, n => n
  | k + 1, n =>
    match n.agenda.valves with
    | [] => n
    | a :: rest => drainValves e k (giveValveNotice e a { n with agenda := { n.agenda with valves := rest } })

/-- Escalation judged for every incident in ascending number (R127; log 14). -/
def judgeEscalations (e : Env) (n : Net) : Net := incidentIds.foldl (fun n i => escalate e i n) n

/-- The incident notices of the event, each with the state it reports (R81; log 15). -/
def drainIncidents (e : Env) (n : Net) : Net :=
  let freed := n.agenda.incidents.map fun i => decide ((n.incident i).state = .free)
  freed.foldl (fun n f => takeIncidentNotice e f n) { n with agenda := { n.agenda with incidents := [] } }

/-- The sensor notices in batches, each in ascending id; those that a batch gives form the next (R58, R65; log 11). -/
def drainSensors (e : Env) : Nat → Net → Net
  | 0, n => n
  | k + 1, n =>
    match n.agenda.sensors with
    | [] => n
    | batch => drainSensors e k
        (batch.foldl (fun n s => takeSensorNotice e s n) { n with agenda := { n.agenda with sensors := [] } })

/-- Everything that follows an event within it. That the incident notices, with their sweeps, come before the sensor notices is the
model's choice (log 32). The bounds on the rounds are never met (log 23), so that nothing is left when the
agenda is cleared. -/
def settle (e : Env) (n : Net) : Net :=
  let n := judgeEscalations e (drainValves e Config.valveRounds n)
  let n := drainSensors e Config.sensorRounds (drainIncidents e n)
  judgeAttn { n with agenda := {} }

end Sys2Proof.Machine
end

