-- ==== Sys2Proof/Machine/Supply.lean ====
section
/-! DEFINITION. The supply check (R120 to R122). -/

namespace Sys2Proof.Machine

/-- One flood of the network: which nodes it enters, and which pipes and valves it crosses (R120). -/
structure Pass where
  node : Nat → Bool
  pipe : Nat → Bool
  valve : Nat → Bool

/-- A valve is closed by its state alone: confirmed closed, or in a CLOSE stroke (R120). -/
def closedByState (n : Net) (v : Nat) : Bool := (n.valve v).confirmedClosed n.params || (n.valve v).inCloseStroke

/-- Pass B, the planned network (R120). -/
def passB (n : Net) : Pass where
  node x := (n.node x).owner.isNone
  pipe p := (n.pipe p).owner.isNone
  valve v := !(closedByState n v || !(n.valve v).holders.isEmpty)

/-- The level of an incident is that of an unchecked frame (R120). -/
def Incident.unchecked (r : Incident) (level : Nat) : Bool :=
  match r.frames[level]? with
  | some f => !f.checked
  | none => false

/-- An owner field that pass A takes as empty (R120). -/
def openInA (i : Nat) (r : Incident) : Option Owner → Bool
  | none => true
  | some o => o.incident == i && r.unchecked o.level

/-- A valve that an incident alone holds, through an unchecked frame (R120). -/
def heldUnchecked (n : Net) (i v : Nat) : Bool :=
  (n.valve v).holders == [i] && (match (n.incident i).entry v with
    | some (checked, _) => !checked
    | none => false)

/-- Pass A, the network without the unchecked plan (R120). -/
def passA (n : Net) (i : Nat) : Pass where
  node x := openInA i (n.incident i) (n.node x).owner
  pipe p := openInA i (n.incident i) (n.pipe p).owner
  valve v := if heldUnchecked n i v then !closedByState n v else (passB n).valve v

/-- An edge that a pass crosses (R120). -/
def Pass.crosses (p : Pass) (d : Edge) : Bool :=
  match d.kind with
  | .pipe => p.pipe d.id
  | .valve => p.valve d.id

/-- The nodes that an edge newly enters, after those found before it. -/
def Pass.found (p : Pass) (entered new : List Nat) (d : Edge) : List Nat :=
  if p.crosses d && p.node d.far && !decide (d.far ∈ entered) && !decide (d.far ∈ new) then new ++ [d.far] else new

/-- A flood from a frontier, at most `k` nodes (R120). -/
def flood (n : Net) (p : Pass) : Nat → List Nat → List Nat → List Nat
  | 0, _, entered => entered
  | _ + 1, [], entered => entered
  | k + 1, x :: xs, entered =>
    let new := (n.node x).edges.foldl (p.found entered) []
    flood n p k (xs ++ new) (entered ++ new)

/-- The nodes that a pass enters from every SOURCE node it may enter (R120). -/
def entered (n : Net) (p : Pass) : List Nat :=
  let sources := idsWhere (fun k x => x.tag = .adopted && x.kind = .source && p.node k) n.nodes
  flood n p (graphRounds n sources) sources sources

/-- The newly cut nodes in ascending id: protected, entered in pass A and not in pass B (R121). -/
def newlyCut (n : Net) (i : Nat) : List Nat :=
  let a := entered n (passA n i)
  let b := entered n (passB n)
  idsWhere (fun k x => x.tag = .adopted && x.guarded && decide (k ∈ a) && !decide (k ∈ b)) n.nodes

/-- A supply result: stale, applied, or dropped for a FAILED incident (R97, R107, R121). -/
def supplyResult (e : Env) (i : Nat) (generation : BitVec 16) (n : Net) : Net :=
  let r := n.incident i
  if generation ≠ r.generation then { n with jobsStale := satInc n.jobsStale }
  else if r.state = .checking then countCompleted (applySupply e i (newlyCut n i) n)
  else n

/-- A SUPPLY job completes (R121). -/
def completeSupply (e : Env) (i : Nat) (generation : BitVec 16) (n : Net) : Net :=
  finishJob e (supplyResult e i generation (setMarker (.supply i generation) .none n))

end Sys2Proof.Machine
end

