-- ==== Sys2Proof/Machine/Walk.lean ====
section
/-! DEFINITION. The boundary walk and the merging of incidents (R108 to R119). -/

namespace Sys2Proof.Machine

/-- A walk in progress: the tables, the walking incident and its level, the frontier, the incidents folded so far, and whether the
walk has ended early (R108, R117). -/
structure Walk where
  net : Net
  incident : Nat
  level : Nat
  frontier : List Nat
  folded : List Nat
  ended : Bool

/-- The walking incident is FAILED (R109). -/
def Walk.failed (w : Walk) : Bool := (w.net.incident w.incident).state = .failed

/-- The walk ends early with a cause (R112). -/
def Walk.stop (e : Env) (w : Walk) (why : FailReason) : Walk :=
  { w with net := enterFailed e w.incident why w.net, ended := true }

/-! ### Folding (R116 to R118) -/

/-- Step 1: the ground of `i` is re-owned to (j, depth of j), and its counts are added to the innermost frame (R116); beyond a
region limit the survivor fails (R118). -/
def foldGround (e : Env) (i j : Nat) (n : Net) : Net :=
  let r := n.incident i
  let d := (n.incident j).depth
  let n := modFrame j d (fun f => { f with
    regionNodes := f.regionNodes + r.ownedNodes, regionPipes := f.regionPipes + r.ownedPipes }) (reown i j d n)
  let s := n.incident j
  if Config.maxRegion < s.ownedNodes ∨ Config.maxRegion < s.ownedPipes then enterFailed e j .regionLimit n else n

/-- The number of valves in the innermost frame's boundary list. -/
def Incident.innermostSize (r : Incident) : Nat :=
  match r.outermost with
  | some f => f.boundary.length
  | none => 0

/-- A valve loses `i`'s bit without gaining another: a running CLOSE stroke is stopped, and the valve is handed back when no
incident holds it (R118). -/
def foldOut (e : Env) (i v : Nat) (n : Net) : Net :=
  let n := loseHolder e i v n
  if (n.valve v).holders.isEmpty then handback e v n else n

/-- Step 2 for one valve: it joins the survivor's innermost frame and the holder bit passes over (R116), unless the frame is full
(R118). -/
def foldValve (e : Env) (i j : Nat) (b : Boundary) (n : Net) : Net :=
  let pass := modValve b.valve (fun x => { x with holders := insertAsc j (x.holders.filter (· != i)) })
  if (n.incident j).lists b.valve then pass n
  else if Config.maxBoundary ≤ (n.incident j).innermostSize then foldOut e i b.valve (enterFailed e j .boundaryFull n)
  else pass (modFrame j (n.incident j).depth (fun f => { f with boundary := f.boundary ++ [b] }) n)

/-- Step 3 for one pending cause: its entry is failed-flagged and it joins the survivor's list (R116), unless it would be a ninth
(R118; log 24). -/
def foldCause (e : Env) (j v : Nat) (n : Net) : Net :=
  let n := modIncident j (fun r => r.withFailed v true) n
  let r := n.incident j
  if v ∈ r.pendingCauses then n
  else if Config.maxPending ≤ r.pendingCauses.length then enterFailed e j .causeOverflow n
  else modIncident j (fun r => { r with pendingCauses := r.pendingCauses ++ [v] }) n

/-- Step 4 for one origin (R116). -/
def Incident.joinOrigin (r : Incident) (o : Origin) : Incident :=
  if r.origins.length < Config.maxOrigins then { r with origins := r.origins ++ [o] }
  else { r with unlisted := satInc r.unlisted }

/-- Steps 4 and 5: the origins join, the innermost frame becomes unchecked and the plan generation rises (R116). -/
def foldPlan (i j : Nat) (n : Net) : Net :=
  let r := n.incident i
  noteIncident j (modIncident j (fun s =>
    let s := r.origins.foldl Incident.joinOrigin s
    { s with
      unlisted := satAdd s.unlisted r.unlisted
      frames := s.frames.modify s.depth fun f => { f with checked := false }
      generation := s.generation + 1 }) n)

/-- The detail of FREED for a merged incident: bit 31 and the survivor (R198). -/
def mergedDetail (j : Nat) : Nat := 2 ^ 31 + j

/-- The folded incident becomes FREE, merged into the survivor (R117). -/
def freeMerged (e : Env) (i j : Nat) (n : Net) : Net :=
  noteIncident i (raise e .freed i (mergedDetail j)
    (modIncident i (fun r => { r.freed with mergedInto := some j }) (dropWaiting i n)))

/-- Incident `i` folded into `j` in one step (R116 to R118). -/
def foldIncident (e : Env) (i j : Nat) (n : Net) : Net :=
  let r := n.incident i
  let n := foldGround e i j n
  let n := r.boundary.foldl (fun n b => foldValve e i j b n) n
  let n := r.pendingCauses.foldl (fun n v => foldCause e j v n) n
  freeMerged e i j (foldPlan i j n)

/-- A merge: the walk goes on as the survivor's at its depth, and ends when the fold has failed the survivor (R117, R118). -/
def Walk.merge (e : Env) (w : Walk) (j : Nat) : Walk :=
  let already := (w.net.incident j).state = .failed
  let n := foldIncident e w.incident j w.net
  { w with
    net := n
    incident := j
    level := (n.incident j).depth
    folded := w.folded ++ [w.incident]
    ended := decide ((n.incident j).state = .failed ∧ ¬ already) }

/-! ### Arrivals (R108, R109) -/

/-- The judgement of a node that the walk arrives at (R109). -/
inductive Arrival where
  | source | own | merge (j : Nat) | wall | unowned
  deriving DecidableEq, Repr

/-- The judgement of a far node or a seed, SOURCE first (R108, R109). -/
def Walk.arrival (w : Walk) (x : Nat) : Arrival :=
  let node := w.net.node x
  if node.kind = .source then .source
  else match node.owner with
    | none => .unowned
    | some o => if o.incident = w.incident then .own else if w.failed then .wall else .merge o.incident

/-- One more node would pass the region limit (R112). -/
def Walk.nodesFull (w : Walk) : Bool := decide (Config.maxRegion ≤ (w.net.incident w.incident).ownedNodes)

/-- One more pipe would pass the region limit (R112). -/
def Walk.pipesFull (w : Walk) : Bool := decide (Config.maxRegion ≤ (w.net.incident w.incident).ownedPipes)

/-- A node is claimed for the walking incident and joins the tail of the frontier (R109). -/
def Walk.claim (w : Walk) (x : Nat) : Walk :=
  { w with net := claimNode w.incident w.level x w.net, frontier := w.frontier ++ [x] }

/-- The walk arrives at a node without claiming a pipe: a seed, or the far node of a crossed valve (R108, R109, R111). -/
def Walk.arrive (e : Env) (w : Walk) (x : Nat) : Walk :=
  match w.arrival x with
  | .source => w.stop e .sourceInside
  | .own | .wall => w
  | .merge j => w.merge e j
  | .unowned => if w.nodesFull then w.stop e .regionLimit else w.claim x

/-- A seed is judged as it is placed: the incident's own is placed without a claim (R108). -/
def Walk.seed (e : Env) (w : Walk) (x : Nat) : Walk :=
  if w.ended then w
  else if w.arrival x = .own then { w with frontier := w.frontier ++ [x] }
  else w.arrive e x

/-! ### Edges (R110, R111) -/

/-- A pipe is claimed for the walking incident (R110). -/
def Walk.claimPipe (w : Walk) (p : Nat) : Walk := { w with net := Machine.claimPipe w.incident w.level p w.net }

/-- A pipe edge (R110). -/
def Walk.takePipe (e : Env) (w : Walk) (p far : Nat) : Walk :=
  match (w.net.pipe p).owner with
  | some o => if o.incident = w.incident ∨ w.failed then w else w.merge e o.incident
  | none =>
    match w.arrival far with
    | .source => w.stop e .sourceInside
    | .wall => w
    | .own => if w.pipesFull then w.stop e .regionLimit else w.claimPipe p
    | .merge j => if w.pipesFull then w.stop e .regionLimit else (w.claimPipe p).merge e j
    | .unowned => if w.pipesFull || w.nodesFull then w.stop e .regionLimit else (w.claimPipe p).claim far

/-- A valve is usable for an incident (R111). -/
def usable (n : Net) (i v : Nat) : Bool :=
  let x := n.valve v
  let r := n.incident i
  x.tag = .adopted && (x.health = .good || x.health = .untested) && !r.frames.any (fun f => decide (v ∈ f.causes)) &&
    !decide (v ∈ r.pendingCauses)

/-- A usable valve joins the frame's boundary list and gains the holder bit; the notice is given as it is appended (R111, R113). -/
def Walk.hold (e : Env) (w : Walk) (v : Nat) : Walk :=
  let n := modFrame w.incident w.level (fun f => { f with boundary := f.boundary ++ [⟨v, false⟩] }) w.net
  let n := modValve v (fun x => { x with holders := insertAsc w.incident x.holders }) n
  { w with net := holderGained e v n }

/-- The frame that the walk fills is full (R112). -/
def Walk.boundaryFull (w : Walk) : Bool :=
  match (w.net.incident w.incident).frames[w.level]? with
  | some f => decide (Config.maxBoundary ≤ f.boundary.length)
  | none => false

/-- A valve edge (R111). -/
def Walk.takeValve (e : Env) (w : Walk) (v far : Nat) : Walk :=
  if (w.net.incident w.incident).lists v then w
  else if usable w.net w.incident v then
    if w.boundaryFull then w.stop e .boundaryFull else w.hold e v
  else w.arrive e far

/-- An edge of the node being examined; nothing more is examined once the walk has ended (R108, R112). -/
def Walk.takeEdge (e : Env) (w : Walk) (d : Edge) : Walk :=
  if w.ended then w
  else match d.kind with
    | .pipe => w.takePipe e d.id d.far
    | .valve => w.takeValve e d.id d.far

/-- The nodes of the frontier examined one at a time, at most `k` of them (R108). -/
def Walk.spread (e : Env) : Nat → Walk → Walk
  | 0, w => w
  | k + 1, w =>
    match w.frontier with
    | [] => w
    | x :: xs =>
      if w.ended then w
      else Walk.spread e k ((w.net.node x).edges.foldl (fun w d => w.takeEdge e d) { w with frontier := xs })

/-- The seeds of a frame (R108). -/
def seedsAt (n : Net) (i level : Nat) : List Nat :=
  match (n.incident i).frames[level]? with
  | some f => f.seeds
  | none => []

/-- The whole walk of a BOUNDARY job (R108 to R112). -/
def runWalk (e : Env) (i level : Nat) (n : Net) : Walk :=
  let w : Walk := (seedsAt n i level).foldl (fun w x => w.seed e x) ⟨n, i, level, [], [], false⟩
  w.spread e (graphRounds w.net w.frontier)

/-! ### The result (R113, R117) -/

/-- The last survivor of the walk that is not FAILED: its generation rises and it is CHECKING, with its hold ended (R113, R117). -/
def applyWalk (s : Nat) (n : Net) : Net :=
  let r := n.incident s
  if r.state = .failed then n
  else
    let n := modIncident s (fun r => { r.unheld with state := .checking, generation := r.generation + 1 }) n
    if r.state = .checking then n else noteIncident s n

/-- The incident notices of a completion in order: the survivor's, then those of the folded incidents in ascending number, then
the others (R117). That the walking incident's comes first also when the walk folded none, and that the notice of an incident which a
reclaimed valve of the walk has freed comes after them, is the model's choice (log 40). -/
def orderNotices (s : Nat) (folded : List Nat) (n : Net) : Net :=
  let given := n.agenda.incidents
  let first := (s :: insertAll folded []).filter fun i => decide (i ∈ given)
  { n with agenda := { n.agenda with incidents := first ++ given.filter fun i => !decide (i ∈ first) } }

/-- A BOUNDARY job completes (R113, R117). -/
def completeBoundary (e : Env) (i level : Nat) (n : Net) : Net :=
  let w := runWalk e i level (setMarker (.boundary i level) .none n)
  finishJob e (countCompleted (orderNotices w.incident w.folded (applyWalk w.incident w.net)))

end Sys2Proof.Machine
end

