-- ==== Sys2Proof/Machine/Bus.lean ====
section
/-! DEFINITION. The Bus Interposer (chapter 2): the treatment of an access by its place, record collection, and the command
window. -/

namespace Sys2Proof.Machine

/-! ### Events -/

/-- What the blocks read beside their own state: time and the command shadow. -/
def State.env (s : State) : Env := ⟨s.time, s.shadow⟩

/-- An event taken whole by the blocks. -/
def State.event (f : Env → Net → Net) (s : State) : State := { s with net := settle s.env (f s.env s.net) }

/-- An event of the part itself, which RESET_N asserted keeps from occurring (R41). -/
def State.occur (f : Env → Net → Net) (s : State) : State := if s.resetAsserted then s else s.event f

/-! ### Record collection (R29 to R33) -/

/-- The latch or buffer word of a record word (R29). -/
def State.latch (s : State) : RecordWord → Latch
  | .image _ w => lookup Latch.atReset s.imageBuffer w.toNat
  | .sample slot _ => lookup Latch.atReset s.sampleLatches slot.toNat
  | .position slot _ => lookup Latch.atReset s.positionLatches slot.toNat
  | .control w => lookup Latch.atReset s.controlBuffer w.toNat

/-- The latch or buffer word of a record word, written. -/
def State.setLatch (s : State) (r : RecordWord) (l : Latch) : State :=
  match r with
  | .image _ w => { s with imageBuffer := store Latch.atReset s.imageBuffer w.toNat l }
  | .sample slot _ => { s with sampleLatches := store Latch.atReset s.sampleLatches slot.toNat l }
  | .position slot _ => { s with positionLatches := store Latch.atReset s.positionLatches slot.toNat l }
  | .control w => { s with controlBuffer := store Latch.atReset s.controlBuffer w.toNat l }

/-- The non-final words of the record to which a word belongs (R26). -/
def partsOf : RecordWord → List RecordWord
  | .image slot _ => [.image slot 0, .image slot 1, .image slot 2]
  | .sample slot _ => [.sample slot 0]
  | .position slot _ => [.position slot 0]
  | .control _ => [.control 0, .control 1, .control 2, .control 3, .control 4, .control 5, .control 6]

/-- Every mark of the latch or buffer is set (R30). -/
def State.complete (s : State) (r : RecordWord) : Bool := (partsOf r).all fun p => (s.latch p).mark

/-- The mark of one word cleared (R32). -/
def State.clearMark (s : State) (r : RecordWord) : State := s.setLatch r { s.latch r with mark := false }

/-- Every mark of the latch or buffer cleared (R30). -/
def State.clearMarks (s : State) (r : RecordWord) : State := (partsOf r).foldl State.clearMark s

/-- A write to an image slot other than the remembered one clears the three marks and changes the remembered slot (R31). -/
def State.turnSlot (s : State) (r : RecordWord) : State :=
  match r with
  | .image slot _ => if slot.toNat = s.imageSlot then s else { s.clearMarks r with imageSlot := slot.toNat }
  | _ => s

/-- The window, the slot (absent for the control window) and the word index of a record word (R33). -/
def windowOf : RecordWord → Window
  | .image _ _ => .image
  | .sample _ _ => .sample
  | .position _ _ => .position
  | .control _ => .control
def slotOf : RecordWord → Option Nat
  | .image slot _ => some slot.toNat
  | .sample slot _ => some slot.toNat
  | .position slot _ => some slot.toNat
  | .control _ => none
def indexOf : RecordWord → Nat
  | .image _ w => w.toNat
  | .sample _ w => w.toNat
  | .position _ w => w.toNat
  | .control w => w.toNat

/-- A record error of the Bus Interposer (R33; log 19). -/
def busError (r : RecordWord) (why : RecordReason) (master : Master) (e : Env) (n : Net) : Net :=
  recordError e (windowOf r) why { slot := slotOf r, word := some (indexOf r), master := some master } n

/-- A control record taken by the Control Decoder (R177, R178). -/
def State.takeControl (s : State) (w0 w1 w2 w7 : Word) : State :=
  let a := judgeControl s.env (field w7 0 8) w0 w1 w2 s.net
  { s with net := settle s.env a.net, controlResult := resultOfControl w7 a s.time }

/-- A completed record handed to its taking block: the stored words with the final word's data (R30). -/
def State.takeRecord (s : State) (r : RecordWord) (final : Word) : State :=
  let w := fun p => (s.latch p).word
  match r with
  | .image slot _ =>
    s.event fun e n => takeImageRecord e slot.toNat (w (.image slot 0)) (w (.image slot 1)) (w (.image slot 2)) final n
  | .sample slot _ => s.event fun e n => takeSample e slot.toNat (w (.sample slot 0)) final n
  | .position slot _ => s.event fun e n => takePosition e slot.toNat (w (.position slot 0)) final n
  | .control _ => s.takeControl (w (.control 0)) (w (.control 1)) (w (.control 2)) final

/-- A write in a record window: it passes, and its word is collected (R27, R29 to R33). -/
def State.writeRecord (s : State) (r : RecordWord) (a : Access) : State :=
  let s := { s.turnSlot r with port := .passed a }
  if a.enables ≠ allEnables then
    (if r.isFinal then s else s.clearMark r).event (busError r .partialWrite a.master)
  else if !r.isFinal then s.setLatch r ⟨a.data, true⟩
  else if s.complete r then (s.takeRecord r a.data).clearMarks r
  else (s.clearMarks r).event (busError r .incomplete a.master)

/-! ### The command window (R34 to R39) -/

/-- A write to the slot is suppressed (R34). -/
def suppresses (x : Valve) : Bool :=
  !x.holders.isEmpty || (x.control = .controlled && x.image.any fun m => m.source != .test)

/-- A suppressed write: counted, and for word 3 listed and reported (R37). -/
def State.refuseWrite (s : State) (v word : Nat) (a : Access) : State :=
  let x := s.net.valve v
  let s := { s with port := .suppressed a, refusalCount := satInc s.refusalCount }
  if word ≠ 3 then s
  else
    let entry : Refused := ⟨v, a.data &&& enableMask a.enables, x.holders, x.control, s.time⟩
    let kept := if Config.maxRefusals ≤ s.refusals.length then s.refusals.drop 1 else s.refusals
    { s with refusals := kept ++ [entry] }.event fun e n => raise e .writeRefused v x.control.code n

/-- The shadow word after a passed write (R35). -/
def ShadowWord.written (h : ShadowWord) (a : Access) : ShadowWord :=
  ⟨mergeBytes a.enables h.word a.data, h.mirrored || a.enables == allEnables⟩

/-- A passed write: it is copied into the shadow, and for word 3 the Stroke Controller is told (R35, R36). -/
def State.passWrite (s : State) (v word : Nat) (a : Access) : State :=
  let k := 4 * v + word
  let h := lookup ShadowWord.atReset s.shadow k
  let s := { s with port := .passed a, shadow := store ShadowWord.atReset s.shadow k (h.written a) }
  if word = 3 then s.event fun e n => processorWrite e v n else s

/-- A write in the command window (R34). -/
def State.writeCommand (s : State) (v word : Nat) (a : Access) : State :=
  if suppresses (s.net.valve v) then s.refuseWrite v word a else s.passWrite v word a

/-- A substituted read is a pickup (R39). -/
def State.picksUp (s : State) (v word : Nat) (a : Access) : Bool :=
  decide (word = 3) && a.master == s.linkid && (s.net.valve v).image.any fun m => m.awaiting

/-- A read in the command window (R38, R39). -/
def State.readCommand (s : State) (v word : Nat) (a : Access) : State :=
  let x := s.net.valve v
  if x.control = .free then { s with port := .passed a }
  else
    let answered := { s with port := .answered a (imageWord x.image word) }
    if s.picksUp v word a then answered.event fun e n => pickup e v n else answered

/-! ### Every access (R24, R27, R28, R41) -/

/-- A read in the report window: the word as the state stands, and the latches of a lost-latch word cleared (R28, R50). -/
def State.readReport (s : State) (off : Nat) (a : Access) : State :=
  let answered := { s with port := .answered a (reportWord s off) }
  match latchWordAt off with
  | some k => answered.event fun _ n => clearLatches k n
  | none => answered

/-- An access at a place of the aperture (R27); while RESET_N is asserted it passes and nothing is taken (R41). -/
def State.takePlace (s : State) (p : Place) (a : Access) : State :=
  if s.resetAsserted then { s with port := .passed a }
  else match p with
    | .record r => if a.write then s.writeRecord r a else { s with port := .passed a }
    | .command v word => if a.write then s.writeCommand v word a else s.readCommand v word a
    | .report off => if a.write then { s with port := .passed a } else s.readReport off a
    | .outside => { s with port := .passed a }

/-- An access of the station bus (R24, R25). -/
def State.takeAccess (s : State) (a : Access) : State := s.takePlace (placeOf s.anch a.addr) a

/-! ### Accesses that the commands spell -/

/-- A full write of a record word. -/
def State.fullRecordWrite (s : State) (r : RecordWord) (data : Word) (master : Master) : State :=
  s.takePlace (.record r) (fullWrite s.anch (recordOffset r) data master)

/-- The final-word write of a control record of a kind (R177). -/
def State.controlWrite (s : State) (w : ControlWrite) (kind : BitVec 8) : State :=
  s.fullRecordWrite (.control 7) (controlWord7 w kind) w.master

/-! ### Reset (R41, R190) -/

/-- The device-reset state with the queue of commands and the port kept (log 8). -/
def State.deviceReset (s : State) (asserted : Bool) (anch : BitVec 8) (linkid : Master) : State :=
  { State.reset with pending := s.pending, port := s.port, resetAsserted := asserted, anch := anch, linkid := linkid }

end Sys2Proof.Machine
end

