-- ==== Sys2Proof/Machine/BusAccess.lean ====
section
/-! DEFINITION. Meanings of the bus commands that hand over no record: passed accesses, the collection of record words, the command
window and lost-latch reads (R24 to R39, R50). -/

namespace Sys2Proof.Machine

/-- PASSED_ACCESS: an access of the station bus, treated by its address (R24 to R28; log 2, 28). -/
def execPassedAccess (a : Access) (s : State) : Host.Outcome State Fault Refusal := .next (s.takeAccess a)

/-- NON_FINAL_WORD_WRITE: a full write of a record word (R29). -/
def execNonFinalWordWrite (r : RecordWord) (data : Word) (master : Master) (s : State) : Host.Outcome State Fault Refusal :=
  .next (s.fullRecordWrite r data master)

/-- PARTIAL_WRITE: a write of a record word with its byte enables (R32). -/
def execPartialWrite (r : RecordWord) (data : Word) (be : Enables) (master : Master) (s : State) :
    Host.Outcome State Fault Refusal :=
  .next (s.takePlace (.record r) ⟨true, apertureBase s.anch + recordOffset r, be, data, master⟩)

/-- INCOMPLETE_RECORD: a final-word write (R30). -/
def execIncompleteRecord (r : RecordWord) (data : Word) (master : Master) (s : State) : Host.Outcome State Fault Refusal :=
  .next (s.fullRecordWrite r data master)

/-- COMMAND_READ: a read in the command window (R38, R39). -/
def execCommandRead (valve : BitVec 11) (word : BitVec 2) (be : Enables) (master : Master) (s : State) :
    Host.Outcome State Fault Refusal :=
  .next (s.takePlace (.command valve.toNat word.toNat)
    ⟨false, apertureBase s.anch + commandOffset valve.toNat word.toNat, be, 0, master⟩)

/-- COMMAND_WRITE: a write in the command window (R34 to R37). -/
def execCommandWrite (valve : BitVec 11) (word : BitVec 2) (data : Word) (be : Enables) (master : Master) (s : State) :
    Host.Outcome State Fault Refusal :=
  .next (s.takePlace (.command valve.toNat word.toNat)
    ⟨true, apertureBase s.anch + commandOffset valve.toNat word.toNat, be, data, master⟩)

/-- LOST_LATCH_READ: a read of latch word k (R50). -/
def execLostLatchRead (k : BitVec 5) (be : Enables) (master : Master) (s : State) : Host.Outcome State Fault Refusal :=
  .next (s.takePlace (.report (latchOffset k.toNat)) ⟨false, apertureBase s.anch + latchOffset k.toNat, be, 0, master⟩)

end Sys2Proof.Machine
end

