-- ==== Sys2Proof/Machine/Completions.lean ====
section
/-! DEFINITION. Meanings of the job completions. With no such job running the command changes nothing (log 3). -/

namespace Sys2Proof.Machine

/-- The running job is a BOUNDARY job and completes (R113). -/
def boundaryCompletion (e : Env) (n : Net) : Net :=
  match runningJob n with
  | some (.boundary i level) => completeBoundary e i level n
  | _ => n

/-- The running job is a SUPPLY job and completes (R121). -/
def supplyCompletion (e : Env) (n : Net) : Net :=
  match runningJob n with
  | some (.supply i generation) => completeSupply e i generation n
  | _ => n

/-- The running job is an ADOPT_TOPOLOGY job and completes (R17, R18). -/
def topologyCompletion (e : Env) (n : Net) : Net :=
  match runningJob n with
  | some .adoptTopology => completeTopology e n
  | _ => n

/-- The running job is an ADOPT_SENSORS job and completes (R19). -/
def sensorsCompletion (e : Env) (n : Net) : Net :=
  match runningJob n with
  | some .adoptSensors => completeSensors e n
  | _ => n

/-- The running job is a CROSS_CHECK job and completes (R20). -/
def crossCompletion (e : Env) (n : Net) : Net :=
  match runningJob n with
  | some .crossCheck => completeCross e n
  | _ => n

/-- BOUNDARY_JOB_COMPLETION (R106, R113). -/
def execBoundaryJobCompletion (s : State) : Host.Outcome State Fault Refusal := .next (s.occur boundaryCompletion)

/-- SUPPLY_JOB_COMPLETION (R106, R121). -/
def execSupplyJobCompletion (s : State) : Host.Outcome State Fault Refusal := .next (s.occur supplyCompletion)

/-- ABANDONED_JOB_COMPLETION (R107). -/
def execAbandonedJobCompletion (s : State) : Host.Outcome State Fault Refusal := .next (s.occur completeAbandoned)

/-- TOPOLOGY_VALIDATION_COMPLETION (R17, R18). -/
def execTopologyValidationCompletion (s : State) : Host.Outcome State Fault Refusal := .next (s.occur topologyCompletion)

/-- SENSOR_VALIDATION_COMPLETION (R19). -/
def execSensorValidationCompletion (s : State) : Host.Outcome State Fault Refusal := .next (s.occur sensorsCompletion)

/-- CROSS_CHECK_COMPLETION (R20). -/
def execCrossCheckCompletion (s : State) : Host.Outcome State Fault Refusal := .next (s.occur crossCompletion)

end Sys2Proof.Machine
end

