-- ==== Sys2Proof/Machine/Expiries.lean ====
section
/-! DEFINITION. Meanings of the timer expiries. A timer that is stopped, or whose expiry time is not the counter's, has no expiry: the
command changes nothing (log 3, 4). -/

namespace Sys2Proof.Machine

/-- The pickup timer of a valve expires: NO_PICKUP (R155). -/
def expirePickup (e : Env) (v : Nat) (n : Net) : Net :=
  if (n.valve v).inStroke && timerDue (n.valve v).pickup e.time then faultStroke e v .noPickup n else n

/-- The progress timer of a valve expires: STALLED (R157). -/
def expireProgress (e : Env) (v : Nat) (n : Net) : Net :=
  if (n.valve v).inStroke && timerDue (n.valve v).progress e.time then faultStroke e v .stalled n else n

/-- The deadline timer of a valve expires: OVERTIME (R156). -/
def expireDeadline (e : Env) (v : Nat) (n : Net) : Net :=
  if (n.valve v).inStroke && timerDue (n.valve v).deadline e.time then faultStroke e v .overtime n else n

/-- A timer of the part, by its owner (R49, R55, R67, R91, R155 to R157). -/
inductive Expiry where
  | sensorLoss (sensor : Nat)
  | sensorPersistence (sensor : Nat)
  | cellPersistence (cell : Nat)
  | hold (incident : Nat)
  | pickup (valve : Nat)
  | progress (valve : Nat)
  | deadline (valve : Nat)
  deriving DecidableEq, Repr

/-- What the expiry of a timer does. -/
def Expiry.take : Expiry → Env → Net → Net
  | .sensorLoss k, e, n => loseSensor e k n
  | .sensorPersistence k, e, n => tripSensor e k n
  | .cellPersistence k, e, n => tripCell e k n
  | .hold i, e, n => expireHold e i n
  | .pickup v, e, n => expirePickup e v n
  | .progress v, e, n => expireProgress e v n
  | .deadline v, e, n => expireDeadline e v n

/-- The expiry of a timer as an event of its own. -/
def State.expire (s : State) (x : Expiry) : State := s.occur x.take

/-- The timers that expire at a value of the counter, in the order in which the advance past that value takes those that are left
(R40; log 4). -/
def dueExpiries (now : Time) (n : Net) : List Expiry :=
  (idsWhere (fun _ x => timerDue x.loss now) n.sensors).map .sensorLoss ++
  (idsWhere (fun _ x => timerDue x.persist now) n.sensors).map .sensorPersistence ++
  (idsWhere (fun _ c => timerDue c.persist now) n.cells).map .cellPersistence ++
  (idsWhere (fun _ r => timerDue r.holdTimer now) n.incidents).map .hold ++
  (idsWhere (fun _ x => timerDue x.pickup now) n.valves).map .pickup ++
  (idsWhere (fun _ x => timerDue x.progress now) n.valves).map .progress ++
  (idsWhere (fun _ x => timerDue x.deadline now) n.valves).map .deadline

/-- Every timer that expires at the counter's value has expired, one event after another (R40; log 4). -/
def State.expireAll (s : State) : State := (dueExpiries s.time s.net).foldl State.expire s

/-- SENSOR_LOSS_EXPIRY (R49). -/
def execSensorLossExpiry (sensor : BitVec 10) (s : State) : Host.Outcome State Fault Refusal :=
  .next (s.expire (.sensorLoss sensor.toNat))

/-- SENSOR_PERSISTENCE_EXPIRY (R55). -/
def execSensorPersistenceExpiry (sensor : BitVec 10) (s : State) : Host.Outcome State Fault Refusal :=
  .next (s.expire (.sensorPersistence sensor.toNat))

/-- CELL_PERSISTENCE_EXPIRY (R67). -/
def execCellPersistenceExpiry (cell : BitVec 6) (s : State) : Host.Outcome State Fault Refusal :=
  .next (s.expire (.cellPersistence cell.toNat))

/-- HOLD_EXPIRY (R91). -/
def execHoldExpiry (incident : BitVec 3) (s : State) : Host.Outcome State Fault Refusal :=
  .next (s.expire (.hold incident.toNat))

/-- PICKUP_TIMER_EXPIRY (R155). -/
def execPickupTimerExpiry (valve : BitVec 11) (s : State) : Host.Outcome State Fault Refusal :=
  .next (s.expire (.pickup valve.toNat))

/-- PROGRESS_TIMER_EXPIRY (R157). -/
def execProgressTimerExpiry (valve : BitVec 11) (s : State) : Host.Outcome State Fault Refusal :=
  .next (s.expire (.progress valve.toNat))

/-- DEADLINE_EXPIRY (R156). -/
def execDeadlineExpiry (valve : BitVec 11) (s : State) : Host.Outcome State Fault Refusal :=
  .next (s.expire (.deadline valve.toNat))

end Sys2Proof.Machine
end

