-- ==== Sys2Proof/Machine/Records.lean ====
section
/-! DEFINITION. Meanings of the final-word writes that complete an image, sample or position record (R10, R44, R141). The other
words of the record stand in the latch or buffer. -/

namespace Sys2Proof.Machine

/-- IMAGE_RECORD: the record is checked and then accepted or refused (R10 to R14). -/
def execImageRecord (slot : BitVec 12) (word3 : Word) (master : Master) (s : State) : Host.Outcome State Fault Refusal :=
  .next (s.fullRecordWrite (.image slot 3) word3 master)

/-- SAMPLE_RECORD: the record is taken through the intake stages (R44 to R48). -/
def execSampleRecord (slot : BitVec 10) (word1 : Word) (master : Master) (s : State) : Host.Outcome State Fault Refusal :=
  .next (s.fullRecordWrite (.sample slot 1) word1 master)

/-- POSITION_REPORT: the report is checked, stored and judged by the valve's motion (R141, R142, R166). -/
def execPositionReport (slot : BitVec 11) (word1 : Word) (master : Master) (s : State) : Host.Outcome State Fault Refusal :=
  .next (s.fullRecordWrite (.position slot 1) word1 master)

end Sys2Proof.Machine
end

