-- ==== Sys2Proof/Machine/Requests.lean ====
section
/-! DEFINITION. Meanings of the control requests: the final-word write of a control record of each kind (R177 to R179). The
arguments stand in the control buffer. -/

namespace Sys2Proof.Machine

/-- CONTROL_UNKNOWN_KIND: a kind that holds no assigned code is refused (R177). -/
def execControlUnknownKind (word7 : Word) (master : Master) (s : State) : Host.Outcome State Fault Refusal :=
  .next (s.fullRecordWrite (.control 7) word7 master)

/-- ADOPT_TOPOLOGY (R15). -/
def execAdoptTopology (w : ControlWrite) (s : State) : Host.Outcome State Fault Refusal := .next (s.controlWrite w 1)

/-- ADOPT_SENSORS (R15). -/
def execAdoptSensors (w : ControlWrite) (s : State) : Host.Outcome State Fault Refusal := .next (s.controlWrite w 2)

/-- REOPEN_IMAGE (R22). -/
def execReopenImage (w : ControlWrite) (s : State) : Host.Outcome State Fault Refusal := .next (s.controlWrite w 3)

/-- ISOLATE_NODE (R86). -/
def execIsolateNode (w : ControlWrite) (s : State) : Host.Outcome State Fault Refusal := .next (s.controlWrite w 4)

/-- CONFIRM (R90). -/
def execConfirm (w : ControlWrite) (s : State) : Host.Outcome State Fault Refusal := .next (s.controlWrite w 5)

/-- RELEASE (R98). -/
def execRelease (w : ControlWrite) (s : State) : Host.Outcome State Fault Refusal := .next (s.controlWrite w 6)

/-- RETRACT (R137, R138). -/
def execRetract (w : ControlWrite) (s : State) : Host.Outcome State Fault Refusal := .next (s.controlWrite w 7)

/-- TEST_VALVE (R167, R169). -/
def execTestValve (w : ControlWrite) (s : State) : Host.Outcome State Fault Refusal := .next (s.controlWrite w 8)

/-- VALVE_SERVICE with direction OUT in word 1 (R175). -/
def execValveServiceOut (w : ControlWrite) (s : State) : Host.Outcome State Fault Refusal := .next (s.controlWrite w 9)

/-- VALVE_SERVICE with direction IN in word 1 (R176). -/
def execValveServiceIn (w : ControlWrite) (s : State) : Host.Outcome State Fault Refusal := .next (s.controlWrite w 9)

/-- SET_DEMAND (R78). -/
def execSetDemand (w : ControlWrite) (s : State) : Host.Outcome State Fault Refusal := .next (s.controlWrite w 10)

/-- REBASELINE (R61). -/
def execRebaseline (w : ControlWrite) (s : State) : Host.Outcome State Fault Refusal := .next (s.controlWrite w 11)

/-- SET_CAUSE (R182). -/
def execSetCause (w : ControlWrite) (s : State) : Host.Outcome State Fault Refusal := .next (s.controlWrite w 12)

/-- ACK_CAUSES (R184). -/
def execAckCauses (w : ControlWrite) (s : State) : Host.Outcome State Fault Refusal := .next (s.controlWrite w 13)

end Sys2Proof.Machine
end

