-- ==== Sys2Proof/Machine/ResetTime.lean ====
section
/-! DEFINITION. Meanings of the reset and time commands (R40, R41, R190). -/

namespace Sys2Proof.Machine

/-- RESET_N_ASSERT: from then on every access passes, nothing is taken and ATTN is released (R41, R190; log 8). -/
def execResetNAssert (s : State) : Host.Outcome State Fault Refusal := .next (s.deviceReset true 0 0)

/-- RESET_N_RELEASE: the straps are sampled and every block stands at its device-reset values (R25, R41; log 8). -/
def execResetNRelease (anch : BitVec 8) (linkid : BitVec 2) (s : State) : Host.Outcome State Fault Refusal :=
  .next (s.deviceReset false anch linkid)

/-- The counter goes up by one, after its largest value to 0 (R40). -/
def State.tick (s : State) : State := { s with time := s.time + 1 }

/-- TIME_COUNTER_ADVANCE: the timers that expire at the value the counter leaves have expired before it goes up; it is held at 0
under reset (R40; log 4). -/
def execTimeCounterAdvance (s : State) : Host.Outcome State Fault Refusal :=
  .next (if s.resetAsserted then s else s.expireAll.tick)

end Sys2Proof.Machine
end

