-- ==== Sys2Proof/Machine/Dispatch.lean ====
section
/-! DEFINITION. Which meaning each command has. -/

namespace Sys2Proof.Machine

def exec (i : Instr) (s : State) : Host.Outcome State Fault Refusal :=
  match i with
  | .resetNAssert => Sys2Proof.Machine.execResetNAssert s
  | .resetNRelease a b => Sys2Proof.Machine.execResetNRelease a b s
  | .timeCounterAdvance => Sys2Proof.Machine.execTimeCounterAdvance s
  | .passedAccess a => Sys2Proof.Machine.execPassedAccess a s
  | .nonFinalWordWrite a b c => Sys2Proof.Machine.execNonFinalWordWrite a b c s
  | .partialWrite a b c d => Sys2Proof.Machine.execPartialWrite a b c d s
  | .incompleteRecord a b c => Sys2Proof.Machine.execIncompleteRecord a b c s
  | .imageRecord a b c => Sys2Proof.Machine.execImageRecord a b c s
  | .sampleRecord a b c => Sys2Proof.Machine.execSampleRecord a b c s
  | .positionReport a b c => Sys2Proof.Machine.execPositionReport a b c s
  | .commandRead a b c d => Sys2Proof.Machine.execCommandRead a b c d s
  | .commandWrite a b c d e => Sys2Proof.Machine.execCommandWrite a b c d e s
  | .lostLatchRead a b c => Sys2Proof.Machine.execLostLatchRead a b c s
  | .controlUnknownKind a b => Sys2Proof.Machine.execControlUnknownKind a b s
  | .adoptTopology a => Sys2Proof.Machine.execAdoptTopology a s
  | .adoptSensors a => Sys2Proof.Machine.execAdoptSensors a s
  | .reopenImage a => Sys2Proof.Machine.execReopenImage a s
  | .isolateNode a => Sys2Proof.Machine.execIsolateNode a s
  | .confirm a => Sys2Proof.Machine.execConfirm a s
  | .release a => Sys2Proof.Machine.execRelease a s
  | .retract a => Sys2Proof.Machine.execRetract a s
  | .testValve a => Sys2Proof.Machine.execTestValve a s
  | .valveServiceOut a => Sys2Proof.Machine.execValveServiceOut a s
  | .valveServiceIn a => Sys2Proof.Machine.execValveServiceIn a s
  | .setDemand a => Sys2Proof.Machine.execSetDemand a s
  | .rebaseline a => Sys2Proof.Machine.execRebaseline a s
  | .setCause a => Sys2Proof.Machine.execSetCause a s
  | .ackCauses a => Sys2Proof.Machine.execAckCauses a s
  | .sensorLossExpiry a => Sys2Proof.Machine.execSensorLossExpiry a s
  | .sensorPersistenceExpiry a => Sys2Proof.Machine.execSensorPersistenceExpiry a s
  | .cellPersistenceExpiry a => Sys2Proof.Machine.execCellPersistenceExpiry a s
  | .holdExpiry a => Sys2Proof.Machine.execHoldExpiry a s
  | .pickupTimerExpiry a => Sys2Proof.Machine.execPickupTimerExpiry a s
  | .progressTimerExpiry a => Sys2Proof.Machine.execProgressTimerExpiry a s
  | .deadlineExpiry a => Sys2Proof.Machine.execDeadlineExpiry a s
  | .boundaryJobCompletion => Sys2Proof.Machine.execBoundaryJobCompletion s
  | .supplyJobCompletion => Sys2Proof.Machine.execSupplyJobCompletion s
  | .abandonedJobCompletion => Sys2Proof.Machine.execAbandonedJobCompletion s
  | .topologyValidationCompletion => Sys2Proof.Machine.execTopologyValidationCompletion s
  | .sensorValidationCompletion => Sys2Proof.Machine.execSensorValidationCompletion s
  | .crossCheckCompletion => Sys2Proof.Machine.execCrossCheckCompletion s

end Sys2Proof.Machine
end

