-- ==== Sys2Proof/Safety.lean ====
section
/-! DEFINITION. What the statements say of a state: the canonical form of the tables, that nothing is pending between events, that
ATTN follows the causes, and when a control record stands complete in its buffer. -/

namespace Sys2Proof.Machine

/-- Every table of the blocks has its canonical form. -/
structure Net.Canonical (n : Net) : Prop where
  nodes : tableWf Node.atReset n.nodes = true
  pipes : tableWf Pipe.atReset n.pipes = true
  valves : tableWf Valve.atReset n.valves = true
  sensors : tableWf Sensor.atReset n.sensors = true
  cells : tableWf Cell.atReset n.cells = true
  incidents : tableWf Incident.atReset n.incidents = true
  causes : tableWf CauseRecord.atReset n.causes = true

/-- Every table of the part has its canonical form. -/
structure State.Canonical (s : State) : Prop where
  imageBuffer : tableWf Latch.atReset s.imageBuffer = true
  sampleLatches : tableWf Latch.atReset s.sampleLatches = true
  positionLatches : tableWf Latch.atReset s.positionLatches = true
  controlBuffer : tableWf Latch.atReset s.controlBuffer = true
  shadow : tableWf ShadowWord.atReset s.shadow = true
  net : s.net.Canonical

/-- Between events no notice is pending and no escalation is called for (R127; log 23). -/
structure Net.Settled (n : Net) : Prop where
  agenda : n.agenda = {}
  escalation : ∀ i ∈ incidentIds, callsForEscalation (n.incident i) = false

/-- The list names the ids that have a property, in ascending order and each once. -/
def Enumerates (l : List Nat) (p : Nat → Prop) : Prop := l.Pairwise (· < ·) ∧ ∀ k, k ∈ l ↔ p k

/-- From bit `lo` on, a page word shows the values given, each in a field of its width at the bit after the one before it, and 0 in
the bits above the last field (R191). -/
def ShowsFrom (w : Word) : Nat → List (Nat × Nat) → Prop
  | lo, [] => w.toNat / 2 ^ lo = 0
  | lo, (width, v) :: fs => field w lo width = v ∧ ShowsFrom w (lo + width) fs

/-- A page word shows the values of a page layout, first field first (R191). -/
def Shows (w : Word) (fs : List (Nat × Nat)) : Prop := ShowsFrom w 0 fs

/-- A cause draws attention: its flag is set and its level is 1, 2 or 3 (R183). -/
def Net.Draws (n : Net) (k : Nat) : Prop :=
  k < 16 ∧ (n.cause k).flag = true ∧ 1 ≤ (n.cause k).level ∧ (n.cause k).level ≤ 3

/-- ATTN is asserted exactly while some cause draws attention, and the attention word shows the vector of the highest level, within
it of the lowest number (R183). -/
structure Net.AttnFollows (n : Net) : Prop where
  attn : n.attn = true ↔ ∃ k, n.Draws k
  released : n.attn = false → n.attention = ⟨false, 0⟩
  asserted : n.attn = true → ∃ k, n.Draws k ∧ n.attention = ⟨true, (n.cause k).vector⟩ ∧
    ∀ j, n.Draws j → (n.cause j).level < (n.cause k).level ∨ ((n.cause j).level = (n.cause k).level ∧ k ≤ j)

/-- The walker is idle only while no job waits (R105). -/
def Net.Working (n : Net) : Prop := n.walker = none → n.jobs = []

/-- The timer expires at a value of the counter (R40; log 4). -/
def Expiry.dueAt (x : Expiry) (now : Time) (n : Net) : Prop :=
  match x with
  | .sensorLoss k => timerDue (n.sensor k).loss now = true
  | .sensorPersistence k => timerDue (n.sensor k).persist now = true
  | .cellPersistence k => timerDue (n.cell k).persist now = true
  | .hold i => timerDue (n.incident i).holdTimer now = true
  | .pickup v => timerDue (n.valve v).pickup now = true
  | .progress v => timerDue (n.valve v).progress now = true
  | .deadline v => timerDue (n.valve v).deadline now = true

/-- The nodes that a pass enters: the SOURCE nodes it may enter, and the far ends, which it may enter, of the edges it crosses from nodes
it has entered (R120). -/
inductive Pass.Reaches (n : Net) (p : Pass) : Nat → Prop where
  | source (x : Nat) (adopted : (n.node x).tag = .adopted) (kind : (n.node x).kind = .source) (enters : p.node x = true) :
      Reaches n p x
  | edge (x : Nat) (d : Edge) (before : Reaches n p x) (listed : d ∈ (n.node x).edges) (crosses : p.crosses d = true)
      (enters : p.node d.far = true) : Reaches n p d.far

/-! ### What the notices of an event leave alone -/

/-- The fields of the blocks that no notice changes; the others are blanked. -/
def Net.lasting (n : Net) : Net :=
  { n with
    nodes := [], valves := [], sensors := [], cells := [], incidents := [], causes := [], topologyMarker := .none
    sensorsMarker := .none, jobs := [], walker := none, queue := {}, slots := [], passedOver := 0, attn := false
    attention := {}, agenda := {} }

/-- The record's fields, the holders, the health, the fault reason, the release owner, the report and the test record of a
valve. -/
def Valve.lasting (x : Valve) : Valve :=
  { x with
    motion := .rest, purpose := .none, control := .free, image := none, imageSeq := 0, phase := .coarse, pickup := none
    progress := none, deadline := none, reference := 0, best := 0, seated := false }

/-- The record's fields of a cell, its demand and its meter list. -/
def Cell.lasting (c : Cell) : Cell :=
  { c with state := .idle, known := false, imbalance := 0, persist := none, score := 0, absorbed := 0, location := none }

/-- The fields of an incident that is not FREE which only requests, walks and supply results change. -/
def Incident.lasting (r : Incident) : Incident :=
  { r with
    state := .free, holdTimer := none, generation := 0, depth := 0, frames := [], pendingCauses := [], holdReason := .none
    failReason := .none, marker := .none, timeIsolated := none }

/-- The causes that the notices of an event can raise: OPENED, ISOLATED, ESCALATED, FAILED and NO_INCIDENT (R181). -/
def noticeCauses : List Nat := [1, 3, 4, 5, 14]

/-- What the notices of an event leave of each record (R58, R81, R145). -/
structure Net.Lasts (n n' : Net) : Prop where
  fields : n'.lasting = n.lasting
  node : ∀ k, n'.node k = { n.node k with owner := (n'.node k).owner } ∧
    ((n.node k).owner.isSome → (n'.node k).owner = (n.node k).owner)
  valve : ∀ k, (n'.valve k).lasting = (n.valve k).lasting
  sensor : ∀ k, n'.sensor k = { n.sensor k with shown := (n'.sensor k).shown } ∨
    ((n.sensor k).rebaselines = true ∧ n'.sensor k = { (n.sensor k).restarted with shown := (n'.sensor k).shown })
  cell : ∀ k, (n'.cell k).lasting = (n.cell k).lasting
  incident : ∀ i, (n.incident i).state ≠ .free →
    (n'.incident i).state ≠ .free ∧ (n'.incident i).lasting = (n.incident i).lasting
  cause : ∀ k, (n'.cause k).level = (n.cause k).level ∧ (n'.cause k).vector = (n.cause k).vector ∧
    (k ∉ noticeCauses → n'.cause k = n.cause k)

/-! ### Commands and the accesses they spell -/

/-- The control record that a request's command spells, with its kind (R193, R197). -/
def requestOf : Instr → Option (ControlWrite × BitVec 8)
  | .adoptTopology w => some (w, 1)
  | .adoptSensors w => some (w, 2)
  | .reopenImage w => some (w, 3)
  | .isolateNode w => some (w, 4)
  | .confirm w => some (w, 5)
  | .release w => some (w, 6)
  | .retract w => some (w, 7)
  | .testValve w => some (w, 8)
  | .valveServiceOut w => some (w, 9)
  | .valveServiceIn w => some (w, 9)
  | .setDemand w => some (w, 10)
  | .rebaseline w => some (w, 11)
  | .setCause w => some (w, 12)
  | .ackCauses w => some (w, 13)
  | _ => none

/-- The final-word write of a control record (R192, R193). -/
def controlAccess (anch : BitVec 8) (w : ControlWrite) (kind : BitVec 8) : Access :=
  fullWrite anch (recordOffset (.control 7)) (controlWord7 w kind) w.master

/-- The access of the station bus that a command spells; none for a command that is no access (R192; log 2). -/
def accessOf (anch : BitVec 8) (c : Instr) : Option Access :=
  match c with
  | .passedAccess a => some a
  | .nonFinalWordWrite r data m => some (fullWrite anch (recordOffset r) data m)
  | .partialWrite r data be m => some ⟨true, apertureBase anch + recordOffset r, be, data, m⟩
  | .incompleteRecord r data m => some (fullWrite anch (recordOffset r) data m)
  | .imageRecord slot w3 m => some (fullWrite anch (recordOffset (.image slot 3)) w3 m)
  | .sampleRecord slot w1 m => some (fullWrite anch (recordOffset (.sample slot 1)) w1 m)
  | .positionReport slot w1 m => some (fullWrite anch (recordOffset (.position slot 1)) w1 m)
  | .commandRead v w be m => some ⟨false, apertureBase anch + commandOffset v.toNat w.toNat, be, 0, m⟩
  | .commandWrite v w data be m => some ⟨true, apertureBase anch + commandOffset v.toNat w.toNat, be, data, m⟩
  | .lostLatchRead k be m => some ⟨false, apertureBase anch + latchOffset k.toNat, be, 0, m⟩
  | .controlUnknownKind w7 m => some (fullWrite anch (recordOffset (.control 7)) w7 m)
  | _ => (requestOf c).map fun q => controlAccess anch q.1 q.2

/-- The latch or buffer word in which a record word is collected: its window, and its slot or word (R29). -/
def latchKey : RecordWord → Nat × Nat
  | .image _ w => (0, w.toNat)
  | .sample slot _ => (1, slot.toNat)
  | .position slot _ => (2, slot.toNat)
  | .control w => (3, w.toNat)

/-! ### Records that stand complete but for their final word -/

/-- An image record with words w0, w1 and w2 stands in the image buffer, for the remembered slot, and RESET_N is released (R29,
R31, R41). -/
structure State.ImageReady (s : State) (slot : BitVec 12) (w0 w1 w2 : Word) : Prop where
  released : s.resetAsserted = false
  remembered : slot.toNat = s.imageSlot
  complete : s.complete (.image slot 3) = true
  word0 : (s.latch (.image slot 0)).word = w0
  word1 : (s.latch (.image slot 1)).word = w1
  word2 : (s.latch (.image slot 2)).word = w2

/-- The value word of a sample stands in the latch of its slot, marked, and RESET_N is released (R29, R41). -/
structure State.SampleReady (s : State) (slot : BitVec 10) (w0 : Word) : Prop where
  released : s.resetAsserted = false
  complete : s.complete (.sample slot 1) = true
  word0 : (s.latch (.sample slot 0)).word = w0

/-- The position word of a report stands in the latch of its slot, marked, and RESET_N is released (R29, R41). -/
structure State.PositionReady (s : State) (slot : BitVec 11) (w0 : Word) : Prop where
  released : s.resetAsserted = false
  complete : s.complete (.position slot 1) = true
  word0 : (s.latch (.position slot 0)).word = w0

/-- A control record with arguments w0, w1 and w2 stands in the control buffer, complete but for its final word, and RESET_N is
released (R29, R30, R41). -/
structure State.ControlReady (s : State) (w0 w1 w2 : Word) : Prop where
  released : s.resetAsserted = false
  complete : s.complete (.control 7) = true
  word0 : (s.latch (.control 0)).word = w0
  word1 : (s.latch (.control 1)).word = w1
  word2 : (s.latch (.control 2)).word = w2

/-- After a record has been taken: its final word has passed, the blocks stand as given, and the marks are clear (R27, R30). -/
def State.afterRecord (s : State) (r : RecordWord) (final : Word) (master : Master) (n : Net) : State :=
  State.clearMarks { s with port := .passed (fullWrite s.anch (recordOffset r) final master), net := n } r

/-- After a control record has been taken: the same, with the control result written (R178). -/
def State.afterControl (s : State) (w : ControlWrite) (kind : BitVec 8) (outcome : ControlOutcome) (detail : Nat)
    (n : Net) : State :=
  State.clearMarks { s with
    port := .passed (controlAccess s.anch w kind)
    net := n
    controlResult := ⟨w.sequence, kind, outcome, BitVec.ofNat 32 detail, s.time⟩ } (.control 7)

/-- While RESET_N is asserted the part stands at its device-reset values (R41; log 8). -/
def State.HeldInReset (s : State) : Prop :=
  s.resetAsserted = true → s = { State.reset with pending := s.pending, port := s.port, resetAsserted := true }

end Sys2Proof.Machine
end

