-- ==== Sys2Proof/Certificates/Slice0/Obligations.lean ====
section
/-! DEFINITION. The statements for the provers. `settle` stands for what the notices of an event bring about; the statement
NoticesAreTakenAndLeaveWhatLasts says what it leaves alone, and with nothing pending it does nothing but judge ATTN. -/

open Sys2Proof Sys2Proof.Machine

/-! ### Steps, reset, time -/

/-- A step with a command at the front of the queue is that command's meaning on the state with the queue's rest; with no command
waiting the part idles (the model's choice, log 5). -/
def Obligations.StepRunsFrontCommand : Prop :=
  (∀ (c : Instr) (s : State), step { s with pending := c :: s.pending } = exec c s) ∧
  ∀ s : State, s.pending = [] → step s = .next s

/-- Every command has a next state, and leaves the commands that wait. -/
def Obligations.EveryCommandCompletesAndKeepsTheQueue : Prop :=
  ∀ (c : Instr) (s : State), ∃ t, exec c s = .next t ∧ t.pending = s.pending

/-- The state after reset, every entry written out: every table entry EMPTY with its fields at the device-reset values, nothing
collected, refused, queued, running or raised, no record error, ATTN released, the counter at 0 (R23, R29, R35, R37, R40, R43, R63,
R79, R82, R83, R144, R147, R150, R168, R185, R190). RESET_N asserted puts the part in its device-reset values; its release does so
with the straps sampled (R25, R41). The model's are: RESET_N released and the straps 0 in the reset state (log 7), no last access (log
1), the values that the spec names for no field (log 20, 33), the fields of the adoption results beside the outcome (log 38), and that
the queue of commands and the last access stay (log 8). -/
def Obligations.ResetStateAsSpecified : Prop :=
  (let s := State.reset
    let n := s.net
    (s.resetAsserted = false ∧ s.anch = 0 ∧ s.linkid = 0 ∧ s.time = 0 ∧ s.pending = [] ∧ s.port = .none ∧ s.refusals = [] ∧
      s.refusalCount = 0 ∧ s.imageSlot = 0 ∧ (∀ r, s.latch r = ⟨0, false⟩) ∧
      (∀ k, lookup ShadowWord.atReset s.shadow k = ⟨0, false⟩) ∧ s.controlResult = ⟨0, 0, .none, 0, 0⟩) ∧
    (n.imageState = .loading ∧ n.live = false ∧ n.topologyAdopted = false ∧ n.sensorsAdopted = false ∧
      n.params = ⟨10, 20, 5, 100, 50, 20, 30, 150⟩ ∧ n.globals = ⟨.empty, ⟨0, 0, 0, 0, 0, 0, 0, 0⟩⟩ ∧ n.topologyMarker = .none ∧
      n.sensorsMarker = .none ∧ n.topologyResult = ⟨.none, .none, .none, none, none, 0⟩ ∧
      n.sensorsResult = ⟨.none, .none, .none, none, none, 0⟩ ∧ n.crossResult = ⟨.none, .none, .none, none, none, 0⟩) ∧
    (∀ k, n.node k = { tag := .empty, kind := .junction, guarded := false, edges := [], owner := none }) ∧
    (∀ k, n.pipe k = { tag := .empty, endA := 0, endB := 0, owner := none }) ∧
    (∀ k, n.valve k = {
      tag := .empty, endA := 0, endB := 0, diameter := 0, normal := .opened, strokeTime := 0, crossover := 0, divisor := 0
      holders := [], motion := .rest, purpose := .none, control := .free, health := .untested, fault := .none, image := none
      imageSeq := 0, phase := .coarse, pickup := none, progress := none, deadline := none, reference := 0, best := 0
      seated := false, releaseOwner := none, report := none, repeats := 0
      test := { depth := 0, home := 0, result := .none, leg := .none, fault := .none, abort := .none, time := 0 } }) ∧
    (∀ k, n.sensor k = {
      tag := .empty, kind := .pressure, format := .binary, site := 0, cell := 0, threshold := 0, persistence := 0
      lossTimeout := 0, shift := 0, learningCount := 0, state := .unconfigured, baseline := 0, seeded := false, remaining := 0
      loss := none, persist := none, lastSequence := none, lastGood := none, lastDeviation := 0, latch := false, good := 0
      doubtful := 0, bad := 0, badDigit := 0, repeats := 0, shown := false }) ∧
    (∀ k, n.cell k = {
      tag := .empty, threshold := 0, persistence := 0, required := 0, policy := .auto, holdExpiry := 0, centre := 0, demand := 0
      meters := [], state := .idle, known := false, imbalance := 0, persist := none, score := 0, absorbed := 0
      location := none }) ∧
    (∀ k, n.incident k = {
      state := .free, origins := [], unlisted := 0, policy := .auto, holdExpiry := 0, holdTimer := none, generation := 0
      depth := 0, frames := [], pendingCauses := [], holdReason := .none, cutList := [], cutCount := 0, failReason := .none
      marker := .none, reopen := 0, tally := ⟨0, 0, 0⟩, mergedInto := none, note := ⟨none, 0, 0⟩, timeOpened := 0
      timeIsolated := none }) ∧
    (n.jobs = [] ∧ n.walker = none ∧ n.jobsCompleted = 0 ∧ n.jobsStale = 0 ∧ n.jobsAbandoned = 0 ∧ n.queue = ⟨[], [], []⟩ ∧
      n.slots = [] ∧ n.passedOver = 0 ∧ n.dropped = 0) ∧
    (∀ k, n.cause k = ⟨false, 0, 0, 0, 0, 0, 0⟩) ∧ n.attn = false ∧ n.attention = ⟨false, 0⟩ ∧ n.recordErrors = 0 ∧
    n.lastError = { window := none, reason := none, slot := none, word := none, master := none, kind := none, id := none
                    time := 0 }) ∧
  ∀ s : State,
    exec .resetNAssert s =
      .next { State.reset with pending := s.pending, port := s.port, resetAsserted := true } ∧
    ∀ anch linkid, exec (.resetNRelease anch linkid) s =
      .next { State.reset with pending := s.pending, port := s.port, anch := anch, linkid := linkid }

/-- While RESET_N is asserted every block stays at its device-reset values, whatever is commanded (R41). That they stand there from
the assertion on, with the straps read as 0 and the queue and the last access kept, is the model's choice (log 8). -/
def Obligations.UnderResetEveryBlockStaysReset : Prop :=
  ∀ s t : State, s.HeldInReset → step s = .next t → t.HeldInReset

/-- The time counter goes up by one at an advance, from its largest value to 0. A timer of duration d started while the counter reads t
expires at the value t + d, modulo 2³² (R40). An expiry command is that timer's expiry as an event of its own; the timers that expire at
a value of the counter and have not been commanded to are taken before the counter leaves it, in one fixed order, and with none left an
advance changes nothing else. That a sender may command the expiries, and that order, are the model's choice (log 4). -/
def Obligations.TimeCounterAdvancesByOne : Prop :=
  (∀ s : State, s.resetAsserted = false →
    exec .timeCounterAdvance s = .next { s.expireAll with time := s.time + 1 } ∧
    s.expireAll = (dueExpiries s.time s.net).foldl State.expire s ∧
    (dueExpiries s.time s.net = [] → exec .timeCounterAdvance s = .next { s with time := s.time + 1 }) ∧
    (s.time = 0xFFFFFFFF#32 → s.time + 1 = 0) ∧
    ∀ x, s.expire x = { s with net := settle s.env (x.take s.env s.net) }) ∧
  (∀ (t now : Time) (d : Nat), timerDue (startTimer t d) now = true ↔ now.toNat = (t.toNat + d) % 2 ^ 32) ∧
  (∀ now : Time, timerDue none now = false) ∧
  (∀ (n : Net) (now : Time) (x : Expiry), n.Canonical → (x ∈ dueExpiries now n ↔ x.dueAt now n)) ∧
  ∀ (s : State) (sensor : BitVec 10) (cell : BitVec 6) (incident : BitVec 3) (valve : BitVec 11),
    exec (.sensorLossExpiry sensor) s = .next (s.expire (.sensorLoss sensor.toNat)) ∧
    exec (.sensorPersistenceExpiry sensor) s = .next (s.expire (.sensorPersistence sensor.toNat)) ∧
    exec (.cellPersistenceExpiry cell) s = .next (s.expire (.cellPersistence cell.toNat)) ∧
    exec (.holdExpiry incident) s = .next (s.expire (.hold incident.toNat)) ∧
    exec (.pickupTimerExpiry valve) s = .next (s.expire (.pickup valve.toNat)) ∧
    exec (.progressTimerExpiry valve) s = .next (s.expire (.progress valve.toNat)) ∧
    exec (.deadlineExpiry valve) s = .next (s.expire (.deadline valve.toNat))

/-! ### Accesses -/

/-- A command that is an access of the station bus is that access taken by its address: the offsets of R192 fall on the windows,
slots and words they are given for, and what each offset is (R24 to R27, R192, R196). That a command acts by the access
it spells and not by the name of its row, ill-formed commands included, is the model's choice (log 2). -/
def Obligations.BusCommandIsTheAccessItSpells : Prop :=
  (∀ (c : Instr) (a : Access) (s : State), accessOf s.anch c = some a → exec c s = exec (.passedAccess a) s) ∧
  (∀ anch : BitVec 8, apertureBase anch = anch.toNat * 2 ^ 20) ∧
  (∀ r : RecordWord, match r with
    | .image slot w => recordOffset r = 16 * slot.toNat + 4 * w.toNat
    | .sample slot w => recordOffset r = 0x10000 + 8 * slot.toNat + 4 * w.toNat
    | .position slot w => recordOffset r = 0x12000 + 8 * slot.toNat + 4 * w.toNat
    | .control w => recordOffset r = 0x1E000 + 4 * w.toNat) ∧
  ∀ k w : Nat, commandOffset k w = 0x16000 + 16 * k + 4 * w ∧ latchOffset k = 0x20300 + 4 * k

/-- While RESET_N is asserted every access passes, and no command but the release takes effect (R41). After it, accesses outside the
windows, reads of record windows and writes of the report window pass and have no other effect; an address outside the aperture, and an
offset of the aperture that is pass-through, is in no window (R24, R25, R27, R28, R192). -/
def Obligations.AccessesWithoutTreatmentPass : Prop :=
  (∀ (c : Instr) (s : State), s.resetAsserted = true → c ≠ .resetNAssert → (∀ a l, c ≠ .resetNRelease a l) →
    exec c s = .next (match accessOf s.anch c with
      | some a => { s with port := .passed a }
      | none => s)) ∧
  (∀ (s : State) (a : Access), s.resetAsserted = false →
    placeOf s.anch a.addr = .outside ∨ (a.write = false ∧ ∃ r, placeOf s.anch a.addr = .record r) ∨
      (a.write = true ∧ ∃ off, placeOf s.anch a.addr = .report off) →
    exec (.passedAccess a) s = .next { s with port := .passed a }) ∧
  (∀ (anch : BitVec 8) (addr : Nat), addr < anch.toNat * 2 ^ 20 ∨ (anch.toNat + 1) * 2 ^ 20 ≤ addr →
    placeOf anch addr = .outside) ∧
  ∀ (anch : BitVec 8) (off : Nat), (0x1E020 ≤ off ∧ off < 0x20000) ∨ (0x40000 ≤ off ∧ off < 2 ^ 20) →
    placeOf anch (anch.toNat * 2 ^ 20 + off) = .outside

/-- A report-window read outside the lost latches is answered with the word at its offset and changes nothing; offsets in no page
read 0 (R28, R194). What every word of the summary, refusal, incident, cell, sensor and valve pages shows, field by field, and 0 in the
bits and words that no field occupies, the codes of the named values, the image state and the parameters in force (R11, R18, R21, R187 to
R189, R191, R194 to R197): an absent id shows 0xFFFF, an absent incident 15, an absent position 1023, a stopped timer or an absent time 0
(R191, R195). A refusal list of more than eight entries is no run's (R37). The model's are: what the absent slot, window, reason, master code, kind
and word index of the last error, an absent last sequence, last GOOD value or last location, a refusal position, an origin, a frame and a
meter beyond the count show, and the phase bit (log 20), the adoption results before their first job (log 38), and that such a read is
sent as a passed access (log 28). -/
def Obligations.ReportReadShowsTheWord : Prop :=
  (∀ (s : State) (a : Access) (off : Nat), s.resetAsserted = false → a.write = false → placeOf s.anch a.addr = .report off →
    off < 0x20300 ∨ 0x20380 ≤ off → exec (.passedAccess a) s = .next { s with port := .answered a (reportWord s off) }) ∧
  (∀ (s : State) (off : Nat), (0x202C0 ≤ off ∧ off < 0x20300) ∨ (0x20380 ≤ off ∧ off < 0x20400) ∨ 0x3FE00 ≤ off →
    reportWord s off = 0) ∧
  (∀ (l : List Nat) (i : Nat), i < 8 → (setField l).testBit i = decide (i ∈ l)) ∧
  (∀ (w : Word) (lo width : Nat), field w lo width = w.toNat / 2 ^ lo % 2 ^ width) ∧
  ([Tag.empty, .staged, .adopted].map Tag.code = List.range 3 ∧
    [ImageState.loading, .partially, .live].map ImageState.code = List.range 3 ∧
    [IncidentState.free, .searching, .checking, .held, .closing, .isolated, .failed, .releasing].map IncidentState.code = List.range 8 ∧
    [SensorState.unconfigured, .learning, .normal, .excursion, .tripped, .lost].map SensorState.code = List.range 6 ∧
    [CellState.idle, .quiet, .watch, .tripped, .suspended].map CellState.code = List.range 5 ∧
    [Motion.rest, .waiting, .issued, .travel, .fault].map Motion.code = List.range 5 ∧
    [Purpose.none, .close, .openUp, .testOut, .testBack].map Purpose.code = List.range 5 ∧
    [Source.hold, .close, .openUp, .test].map Source.code = List.range 4 ∧
    [Control.free, .controlled, .handbackPending].map Control.code = List.range 3 ∧
    [Health.untested, .good, .seized, .outOfService].map Health.code = List.range 4 ∧
    [FaultReason.none, .noPickup, .stalled, .overtime, .reverse, .torque, .breach].map FaultReason.code = List.range 7 ∧
    [AbortCause.none, .processorWrite, .holderGained, .closeRequest, .serviceOut].map AbortCause.code = List.range 5) ∧
  ([SensorKind.pressure, .flow].map SensorKind.code = List.range 2 ∧ [Format.binary, .decimal].map Format.code = List.range 2 ∧
    [NormalState.opened, .closed].map NormalState.code = List.range 2 ∧ [Policy.auto, .confirm].map Policy.code = List.range 2 ∧
    [Phase.coarse, .fine].map Phase.code = List.range 2 ∧ [HoldReason.none, .supplyCut, .policy].map HoldReason.code = List.range 3 ∧
    [Marker.none, .queued, .running].map Marker.code = List.range 3 ∧
    [FailReason.none, .depth, .boundaryFull, .regionLimit, .sourceInside, .causeOverflow].map FailReason.code = List.range 6 ∧
    [Job.boundary 0 0, .supply 0 0, .adoptTopology, .adoptSensors, .crossCheck].map Job.code = [1, 2, 3, 4, 5] ∧
    [LocationOutcome.opened, .absorbed, .noIncident].map LocationOutcome.code = [1, 2, 3] ∧
    [ControlOutcome.none, .accepted, .unknownKind, .notLive, .badId, .badArgument, .busyImage, .alreadyAdopted, .badNode, .regionActive,
      .noIncident, .wrongState, .nothingToRetract, .causeOpen, .busyValve, .outOfService, .notOpen].map ControlOutcome.code =
      List.range 17 ∧
    [Window.image, .sample, .position, .control].map Window.code = List.range 4 ∧
    [RecordReason.partialWrite, .incomplete, .slotMismatch, .fieldRange, .badKind, .noEntry, .duplicate, .listFull, .adopted,
      .adopting].map RecordReason.code = [1, 2, 3, 4, 5, 6, 7, 8, 9, 10] ∧
    [AdoptionOutcome.none, .passed, .failed].map AdoptionOutcome.code = List.range 3 ∧
    [AdoptionTable.none, .node, .pipe, .valve, .sensor, .cell].map AdoptionTable.code = List.range 6 ∧
    [AdoptionReason.none, .endMissing, .selfLoop, .degree, .noSource, .sourceCount, .protectedCount, .meterMissing, .meterNotFlow,
      .centreRange, .siteMissing, .centreMissing, .cellMissing].map AdoptionReason.code = List.range 13) ∧
  (∀ (i i' level : Nat) (g : BitVec 16), (Job.boundary i level).code = 1 ∧ (Job.supply i' g).code = 2) ∧
  ∀ s : State,
    let n := s.net
    (n.imageState = if n.live then .live else if n.topologyAdopted ∨ n.sensorsAdopted then .partially else .loading) ∧
    (n.params = if n.globals.tag = .adopted then n.globals.params else ⟨10, 20, 5, 100, 50, 20, 30, 150⟩) ∧
    let cut := fun width v : Nat => (width, v % 2 ^ width)
    let flag := fun b : Bool => (1, b.toNat)
    let id := fun v : Option Nat => cut 16 (v.getD 0xFFFF)
    let timer := fun (width : Nat) (t : Option Time) => cut width ((t.map BitVec.toNat).getD 0)
    let signed := fun (width : Nat) (v : Int) => (width, (BitVec.ofInt width v).toNat)
    let pair := fun (l : List Nat) (j : Nat) => [cut 16 (l.getD (2 * j) 0), cut 16 (l.getD (2 * j + 1) 0)]
    (let w := fun k => reportWord s (0x20000 + 4 * k)
      let c := s.controlResult
      let p := n.params
      let l := n.lastError
      let result := fun (k : Nat) (r : AdoptionResult) =>
        Shows (w k) [(2, r.outcome.code), (5, r.reason.code), (3, r.table.code)] ∧ Shows (w (k + 1)) [id r.id, id r.second] ∧
        w (k + 2) = r.time
      let running := match n.walker with
        | some r => [(3, r.job.code), cut 4 (r.job.incident.getD 15)]
        | none => [(3, 0), (4, 15)]
      let large := n.slots.countP fun v => decide (6 ≤ (n.valve v).diameter)
      Shows (w 0) [(2, n.imageState.code), flag n.topologyAdopted, flag n.sensorsAdopted, (2, n.topologyMarker.code),
        (2, n.sensorsMarker.code), (2, n.globals.tag.code)] ∧
      w 1 = s.time ∧
      Shows (w 2) [cut 8 p.closedTolerance, cut 8 p.openTolerance, cut 8 p.progressStep, cut 8 p.reverseTolerance] ∧
      Shows (w 3) [cut 16 p.progressWindow, cut 16 p.pickupTimeout] ∧
      Shows (w 4) [cut 16 p.breachMargin, cut 16 p.deadlineMargin] ∧
      result 5 n.topologyResult ∧ result 8 n.sensorsResult ∧ result 11 n.crossResult ∧
      Shows (w 14) [(16, c.sequence.toNat), (8, c.kind.toNat), (8, c.outcome.code)] ∧ w 15 = c.detail ∧ w 16 = c.time ∧
      Shows (w 17) [cut 8 n.attention.vector, (23, 0), flag n.attention.valid] ∧
      Shows (w 18) [cut 16 n.recordErrors, cut 16 n.dropped] ∧
      Shows (w 19) [(2, (l.window.map Window.code).getD 0), (4, (l.reason.map RecordReason.code).getD 0),
        (2, (l.master.map BitVec.toNat).getD 0), cut 4 (l.kind.getD 0), cut 3 (l.word.getD 0), flag l.slot.isSome,
        flag l.word.isSome, flag l.master.isSome, flag l.kind.isSome, flag l.id.isSome] ∧
      Shows (w 20) [id l.slot, id l.id] ∧ w 21 = l.time ∧
      Shows (w 22) (cut 4 n.jobs.length :: running) ∧ Shows (w 23) [cut 16 n.jobsCompleted, cut 16 n.jobsStale] ∧
      Shows (w 24) [cut 16 n.jobsAbandoned] ∧ Shows (w 25) [cut 12 n.queue.close.length, cut 12 n.queue.openUp.length] ∧
      Shows (w 26) [cut 12 n.queue.test.length, cut 4 n.slots.length, cut 2 large, cut 12 n.passedOver] ∧
      Shows (w 27) [(8, s.anch.toNat), (2, s.linkid.toNat)] ∧
      (∀ k, k < 16 →
        Shows (w (28 + 4 * k)) [flag (n.cause k).flag, cut 2 (n.cause k).level, cut 8 (n.cause k).vector,
          cut 16 (n.cause k).count] ∧
        w (29 + 4 * k) = (n.cause k).time ∧ w (30 + 4 * k) = (n.cause k).subject ∧ w (31 + 4 * k) = (n.cause k).detail) ∧
      ∀ k, 92 ≤ k → k < 128 → w k = 0) ∧
    (let w := fun k => reportWord s (0x20200 + 4 * k)
      let l := s.refusals
      Shows (w 0) [cut 16 s.refusalCount, cut 4 l.length] ∧
      ∀ k, k < 8 →
        (∀ r, l[k]? = some r →
          Shows (w (1 + 4 * k)) [cut 16 r.valve, cut 8 (setField r.holders), (2, r.control.code)] ∧
          w (2 + 4 * k) = r.word ∧ w (3 + 4 * k) = r.time ∧ w (4 + 4 * k) = 0) ∧
        (l[k]? = none → w (1 + 4 * k) = 0 ∧ w (2 + 4 * k) = 0 ∧ w (3 + 4 * k) = 0 ∧ w (4 + 4 * k) = 0)) ∧
    (s.refusals.length ≤ 8 → ∀ k, 33 ≤ k → k < 48 → reportWord s (0x20200 + 4 * k) = 0) ∧
    (∀ i, i < 8 →
      let w := fun k => reportWord s (0x20400 + 320 * i + 4 * k)
      let r := n.incident i
      Shows (w 0) [(3, r.state.code), (1, r.policy.code), (2, r.holdReason.code), (3, r.failReason.code), (2, r.marker.code),
        cut 2 r.depth, cut 4 (r.mergedInto.getD 15), cut 3 r.origins.length, cut 4 r.pendingCauses.length, cut 8 r.cutCount] ∧
      Shows (w 1) [(16, r.generation.toNat), cut 16 r.unlisted] ∧
      Shows (w 2) [cut 13 r.holdExpiry, cut 7 r.reopen, flag r.timeIsolated.isSome] ∧
      Shows (w 3) [cut 7 r.tally.opened, cut 7 r.tally.faulted, cut 7 r.tally.reclaimed, cut 10 r.note.ratio] ∧
      Shows (w 4) [id r.note.winner, cut 16 r.note.skips] ∧
      w 5 = r.holdTimer.getD 0 ∧ w 6 = r.timeOpened ∧ w 7 = r.timeIsolated.getD 0 ∧
      (∀ k, k < 4 →
        (∀ o, r.origins[k]? = some o → Shows (w (8 + 2 * k)) [cut 16 o.node, cut 8 (o.cell.getD 255)] ∧ w (9 + 2 * k) = o.time) ∧
        (r.origins[k]? = none → w (8 + 2 * k) = 0 ∧ w (9 + 2 * k) = 0)) ∧
      (∀ j, j < 4 → Shows (w (16 + j)) (pair r.pendingCauses j)) ∧ (∀ j, j < 2 → Shows (w (20 + j)) (pair r.cutList j)) ∧
      (∀ k, k < 4 →
        (∀ f, r.frames[k]? = some f →
          Shows (w (22 + 14 * k)) [flag f.checked, cut 3 f.causes.length, cut 3 f.seeds.length, cut 5 f.boundary.length] ∧
          (∀ j, j < 2 → Shows (w (23 + 14 * k + j)) (pair f.causes j)) ∧
          (∀ j, j < 2 → Shows (w (25 + 14 * k + j)) (pair f.seeds j)) ∧
          (∀ j, j < 8 → Shows (w (27 + 14 * k + j))
            (pair (f.boundary.map fun b => b.valve % 2 ^ 11 + 2 ^ 15 * b.failed.toNat) j)) ∧
          Shows (w (35 + 14 * k)) [cut 16 f.regionNodes, cut 16 f.regionPipes]) ∧
        (r.frames[k]? = none → ∀ j, j < 14 → w (22 + 14 * k + j) = 0)) ∧
      w 78 = 0 ∧ w 79 = 0) ∧
    (∀ k, k < 64 →
      let w := fun j => reportWord s (0x20E00 + 64 * k + 4 * j)
      let c := n.cell k
      Shows (w 0) [(2, c.tag.code), (3, c.state.code), (1, c.policy.code), flag c.known, cut 4 c.required, cut 5 c.score,
        cut 4 c.meters.length, cut 10 c.persistence] ∧
      Shows (w 1) [cut 16 c.threshold, cut 13 c.holdExpiry] ∧ Shows (w 2) [cut 16 c.centre, timer 10 c.persist] ∧
      w 3 = BitVec.ofInt 32 c.demand ∧ w 4 = BitVec.ofInt 32 c.imbalance ∧
      (∀ x, c.location = some x →
        Shows (w 5) [cut 16 c.absorbed, (2, x.outcome.code), cut 4 (x.incident.getD 15), cut 10 x.ratio] ∧ w 6 = x.time ∧
        Shows (w 7) [cut 16 x.origin, id x.winner] ∧ Shows (w 8) [cut 16 x.zeroBaseline, cut 16 x.ratioRange]) ∧
      (c.location = none →
        Shows (w 5) [cut 16 c.absorbed, (2, 0), (4, 15), (10, 0)] ∧ w 6 = 0 ∧ Shows (w 7) [(16, 0xFFFF), (16, 0xFFFF)] ∧
        w 8 = 0) ∧
      (∀ j, j < 6 → Shows (w (9 + j)) (pair (c.meters.map fun m => m.sensor % 2 ^ 10 + 2 ^ 15 * m.outward.toNat) j)) ∧
      w 15 = 0) ∧
    (∀ k, k < 1024 →
      let w := fun j => reportWord s (0x21E00 + 40 * k + 4 * j)
      let x := n.sensor k
      Shows (w 0) [(2, x.tag.code), (1, x.kind.code), (1, x.format.code), (3, x.state.code), flag x.seeded, flag (masked n x),
        flag x.latch, flag x.lastSequence.isSome, flag x.lastGood.isSome, cut 6 x.cell, cut 4 x.shift, cut 7 x.learningCount] ∧
      Shows (w 1) [cut 13 x.site, cut 15 x.threshold] ∧
      Shows (w 2) [cut 10 x.persistence, cut 12 x.lossTimeout, cut 7 x.remaining] ∧ Shows (w 3) [signed 24 x.baseline] ∧
      Shows (w 4) [signed 16 (x.baseline.tdiv 256), signed 16 (x.lastGood.getD 0)] ∧
      Shows (w 5) [(16, (x.lastSequence.getD 0).toNat), timer 12 x.loss] ∧
      Shows (w 6) [signed 17 x.lastDeviation, timer 10 x.persist] ∧ Shows (w 7) [cut 16 x.good, cut 16 x.doubtful] ∧
      Shows (w 8) [cut 16 x.bad, cut 16 x.badDigit] ∧ Shows (w 9) [cut 16 x.repeats]) ∧
    ∀ v, v < 2048 →
      let w := fun j => reportWord s (0x2BE00 + 40 * v + 4 * j)
      let x := n.valve v
      let r := x.report.getD ⟨1023, false, false, false, 0, 0⟩
      let m := x.image.getD ⟨0, 0, .none, 0, .hold, false⟩
      let inBack := if x.test.leg = .testBack then 1 else 0
      let ending := match x.test.result with
        | .none => (0, 0)
        | .good => (1, 0)
        | .seized => (2 + inBack, x.test.fault.code)
        | .link => (4 + inBack, x.test.fault.code)
        | .aborted => (6 + inBack, x.test.abort.code)
      Shows (w 0) [(16, x.imageSeq.toNat), (16, r.sequence.toNat)] ∧
      Shows (w 1) [cut 16 x.repeats, cut 8 (setField x.holders), cut 4 (x.releaseOwner.getD 15), cut 4 (x.divisor - 1)] ∧
      Shows (w 2) [timer 19 x.deadline, (2, x.tag.code), cut 3 (x.diameter - 1), (3, x.motion.code), (3, x.purpose.code),
        (2, x.health.code)] ∧
      Shows (w 3) [cut 12 x.endA, cut 12 x.endB, (3, x.fault.code), (3, ending.1), (2, x.control.code)] ∧
      Shows (w 4) [cut 12 x.strokeTime, cut 10 m.target, cut 10 m.rate] ∧
      Shows (w 5) [cut 10 r.position, timer 10 x.pickup, timer 10 x.progress, (2, m.source.code)] ∧
      Shows (w 6) [cut 10 x.reference, cut 10 x.best, cut 10 x.test.home, (1, x.normal.code), flag x.seated] ∧
      Shows (w 7) [cut 9 x.crossover, cut 9 x.test.depth, (3, ending.2), (1, x.phase.code), flag (x.confirmedClosed n.params),
        flag (x.confirmedOpen n.params), flag m.awaiting, flag x.image.isSome, flag r.torque, flag r.limitOpen,
        flag r.limitClosed] ∧
      w 8 = r.time ∧ w 9 = x.test.time

/-- A read of lost-latch word k returns the latches of sensors 32k to 32k + 31, bit b for sensor 32k + b, and clears those whose
sensor is not LOST; no other sensor field and no other latch changes (R50). -/
def Obligations.LostLatchReadReturnsThenClears : Prop :=
  ∀ (s : State) (k : BitVec 5) (be : Enables) (m : Master), s.resetAsserted = false → s.Canonical → s.net.Settled →
    ∃ t w, exec (.lostLatchRead k be m) s = .next t ∧
      t = { s with
        port := .answered ⟨false, apertureBase s.anch + latchOffset k.toNat, be, 0, m⟩ w
        net := judgeAttn { s.net with sensors := t.net.sensors } } ∧
      (∀ b, b < 32 → w.getLsbD b = (s.net.sensor (32 * k.toNat + b)).latch) ∧
      ∀ j, t.net.sensor j =
        if j / 32 = k.toNat ∧ (s.net.sensor j).state ≠ .lost then { s.net.sensor j with latch := false } else s.net.sensor j

/-- A write with all enables to a non-final word is stored with its mark and passes; no other latch or buffer word changes, but for
the marks of the image buffer when the write turns it to another slot (R29, R31). -/
def Obligations.RecordWordIsStoredWithItsMark : Prop :=
  (∀ (s : State) (r : RecordWord) (data : Word) (m : Master), s.resetAsserted = false → s.Canonical → r.isFinal = false →
    ∃ t, exec (.nonFinalWordWrite r data m) s = .next t ∧
      t = { (s.turnSlot r).setLatch r ⟨data, true⟩ with port := .passed (fullWrite s.anch (recordOffset r) data m) } ∧
      t.latch r = ⟨data, true⟩ ∧ ∀ r', latchKey r' ≠ latchKey r → t.latch r' = (s.turnSlot r).latch r') ∧
  (∀ (s : State) (slot : BitVec 12) (w : BitVec 2), s.Canonical → slot.toNat ≠ s.imageSlot →
    s.turnSlot (.image slot w) = { s.clearMarks (.image slot w) with imageSlot := slot.toNat } ∧
    (s.turnSlot (.image slot w)).imageSlot = slot.toNat ∧
    (∀ (slot' : BitVec 12) (w' : BitVec 2), w' ≠ 3 →
      (s.turnSlot (.image slot w)).latch (.image slot' w') = ⟨(s.latch (.image slot' w')).word, false⟩) ∧
    ∀ r', (∀ slot' w', r' ≠ .image slot' w') → (s.turnSlot (.image slot w)).latch r' = s.latch r') ∧
  (∀ (s : State) (slot : BitVec 12) (w : BitVec 2), slot.toNat = s.imageSlot → s.turnSlot (.image slot w) = s) ∧
  ∀ (s : State) (r : RecordWord), (∀ slot w, r ≠ .image slot w) → s.turnSlot r = s

/-- A write with fewer than four enables passes, clears the mark of a non-final word, and is reported as PARTIAL; a final-word write
that finds a mark clear passes, clears every mark, and is reported as INCOMPLETE (R30 to R33; the error fields left absent: log 19). A
record is complete when every non-final word of its latch or buffer has its mark; the mark of one word, and the marks of one latch or
buffer, are cleared with the words kept and nothing else changed (R29, R30, R32). The final words, and the window, slot and word that the
report names (R26, R33). -/
def Obligations.PartialAndIncompleteWritesAreReported : Prop :=
  (∀ (s : State) (r : RecordWord) (data : Word) (be : Enables) (m : Master), s.resetAsserted = false → s.net.Settled →
      be ≠ 0xF#4 →
      exec (.partialWrite r data be m) s = .next { (if r.isFinal then s.turnSlot r else (s.turnSlot r).clearMark r) with
        port := .passed ⟨true, apertureBase s.anch + recordOffset r, be, data, m⟩
        net := judgeAttn (recordError s.env (windowOf r) .partialWrite
          { slot := slotOf r, word := some (indexOf r), master := some m } s.net) }) ∧
  (∀ (s : State) (r : RecordWord) (data : Word) (m : Master), s.resetAsserted = false → s.net.Settled → r.isFinal = true →
    (s.turnSlot r).complete r = false →
    exec (.incompleteRecord r data m) s = .next { (s.turnSlot r).clearMarks r with
      port := .passed (fullWrite s.anch (recordOffset r) data m)
      net := judgeAttn (recordError s.env (windowOf r) .incomplete
        { slot := slotOf r, word := some (indexOf r), master := some m } s.net) }) ∧
  (∀ (s : State) (r : RecordWord), s.Canonical →
    let part := fun p : RecordWord => p.isFinal = false ∧ match r, p with
      | .image _ _, .image _ _ => True
      | .sample slot _, .sample slot' _ => slot = slot'
      | .position slot _, .position slot' _ => slot = slot'
      | .control _, .control _ => True
      | _, _ => False
    let collects := fun t : State => t = { s with
      imageBuffer := t.imageBuffer, sampleLatches := t.sampleLatches, positionLatches := t.positionLatches
      controlBuffer := t.controlBuffer }
    (s.complete r = true ↔ ∀ p, part p → (s.latch p).mark = true) ∧
    collects (s.clearMark r) ∧ (s.clearMark r).latch r = ⟨(s.latch r).word, false⟩ ∧
    (∀ p, latchKey p ≠ latchKey r → (s.clearMark r).latch p = s.latch p) ∧
    collects (s.clearMarks r) ∧ (∀ p, part p → (s.clearMarks r).latch p = ⟨(s.latch p).word, false⟩) ∧
    (∀ p, p.isFinal = false → ¬ part p → (s.clearMarks r).latch p = s.latch p) ∧ ∀ l, collects (s.setLatch r l)) ∧
  ∀ r : RecordWord, match r with
    | .image slot w =>
      (r.isFinal = true ↔ w = 3) ∧ windowOf r = .image ∧ slotOf r = some slot.toNat ∧ indexOf r = w.toNat
    | .sample slot w =>
      (r.isFinal = true ↔ w = 1) ∧ windowOf r = .sample ∧ slotOf r = some slot.toNat ∧ indexOf r = w.toNat
    | .position slot w =>
      (r.isFinal = true ↔ w = 1) ∧ windowOf r = .position ∧ slotOf r = some slot.toNat ∧ indexOf r = w.toNat
    | .control w => (r.isFinal = true ↔ w = 7) ∧ windowOf r = .control ∧ slotOf r = none ∧ indexOf r = w.toNat

/-- A raise sets the flag, adds one to the count and overwrites the last-raise record of its cause alone, the level and the vector
kept; a record error counts, overwrites the last-error fields and raises RECORD_ERROR with its window and reason (R180, R185). The
causes have the numbers of R181. -/
def Obligations.RaisesAndRecordErrorsWriteTheirRecords : Prop :=
  (∀ (e : Env) (c : Cause) (subject detail : Nat) (n : Net), n.Canonical →
    ∃ t, raise e c subject detail n = { n with causes := t } ∧
      (raise e c subject detail n).cause c.number =
        { flag := true, level := (n.cause c.number).level, vector := (n.cause c.number).vector
          count := min ((n.cause c.number).count + 1) 65535, time := e.time, subject := BitVec.ofNat 32 subject
          detail := BitVec.ofNat 32 detail } ∧
      ∀ k, k ≠ c.number → (raise e c subject detail n).cause k = n.cause k) ∧
  [Cause.image, .opened, .held, .isolated, .escalated, .failed, .freed, .valveFault, .lateClose, .sensorLost, .writeRefused, .handback,
    .recordError, .testDone, .noIncident, .retracted].map Cause.number = List.range 16 ∧
  ∀ (e : Env) (w : Window) (why : RecordReason) (rest : LastError) (n : Net),
    recordError e w why rest n = raise e .recordError w.code why.code { n with
      recordErrors := min (n.recordErrors + 1) 65535
      lastError := { rest with window := some w, reason := some why, time := e.time } }

/-! ### The network image -/

/-- The checks of an image record run in order, and the first that fails gives its reason (R10); the ranges of the fields, kind by
kind (R4 to R8, R193); the kinds of the codes, the ranges of the ids, the half of a kind, and the entry that a delete record concerns
(R2 to R6, R9, R12, R13). A refused image record passes, clears the marks and is reported with its slot, its kind and its id; no table
changes (R10, R14, R30). -/
def Obligations.ImageChecksRunInOrder : Prop :=
  (∀ (n : Net) (r : ImageRecord),
      (ImageKind.ofCode r.kind = none → imageRefusal n r = some .badKind) ∧
      ∀ k, ImageKind.ofCode r.kind = some k →
        (k.idInRange r.id = false → imageRefusal n r = some .fieldRange) ∧
        (k.idInRange r.id = true → halfAdopted n k = true → imageRefusal n r = some .adopted) ∧
        (k.idInRange r.id = true → halfAdopted n k = false → halfMarker n k ≠ .none → imageRefusal n r = some .adopting) ∧
        (k.idInRange r.id = true → halfAdopted n k = false → halfMarker n k = .none →
          (r.delete = true → deletable n k r = false → imageRefusal n r = some .noEntry) ∧
          (r.delete = true → deletable n k r = true → imageRefusal n r = none) ∧
          (r.delete = false → r.fieldsInRange k = false → imageRefusal n r = some .fieldRange) ∧
          (r.delete = false → r.fieldsInRange k = true → k ≠ .cellMeter → imageRefusal n r = none) ∧
          (r.delete = false → r.fieldsInRange k = true → k = .cellMeter →
            ((n.cell r.id).tag = .empty → imageRefusal n r = some .noEntry) ∧
            ((n.cell r.id).tag ≠ .empty → (∃ m ∈ (n.cell r.id).meters, m.sensor = r.meterSensor) →
              imageRefusal n r = some .duplicate) ∧
            ((n.cell r.id).tag ≠ .empty → (∀ m ∈ (n.cell r.id).meters, m.sensor ≠ r.meterSensor) →
              12 ≤ (n.cell r.id).meters.length → imageRefusal n r = some .listFull) ∧
            ((n.cell r.id).tag ≠ .empty → (∀ m ∈ (n.cell r.id).meters, m.sensor ≠ r.meterSensor) →
              (n.cell r.id).meters.length < 12 → imageRefusal n r = none)))) ∧
  (∀ (n : Net) (k : ImageKind) (r : ImageRecord) (code : Nat),
    ImageKind.ofCode 0 = none ∧
    ImageKind.ofCode (code + 1) = [ImageKind.globals, .node, .pipe, .valve, .sensor, .cell, .cellMeter][code]? ∧
    r.meterSensor = field r.w0 0 16 ∧
    (∀ w0 w1 w2 w3 : Word, imageRecordOf w0 w1 w2 w3 = ⟨w0, w1, w2, field w3 0 4, w3.getLsbD 7, field w3 16 16⟩) ∧
    (k.idInRange r.id = true ↔ match k with
      | .globals => True
      | .node => r.id < 4096
      | .pipe => r.id < 8192
      | .valve => r.id < 2048
      | .sensor => r.id < 1024
      | .cell | .cellMeter => r.id < 64) ∧
    (match k with
      | .globals | .node | .pipe | .valve => halfAdopted n k = n.topologyAdopted ∧ halfMarker n k = n.topologyMarker
      | .sensor | .cell | .cellMeter => halfAdopted n k = n.sensorsAdopted ∧ halfMarker n k = n.sensorsMarker) ∧
    (deletable n k r = true ↔ match k with
      | .globals => n.globals.tag = .staged
      | .node => (n.node r.id).tag = .staged
      | .pipe => (n.pipe r.id).tag = .staged
      | .valve => (n.valve r.id).tag = .staged
      | .sensor => (n.sensor r.id).tag = .staged
      | .cell => (n.cell r.id).tag = .staged
      | .cellMeter => (n.cell r.id).tag = .staged ∧ ∃ m ∈ (n.cell r.id).meters, m.sensor = r.meterSensor)) ∧
  (∀ r : ImageRecord,
    (r.fieldsInRange .globals = true ↔
      field r.w0 0 8 ≤ 50 ∧ field r.w0 8 8 ≤ 100 ∧ (1 ≤ field r.w0 16 8 ∧ field r.w0 16 8 ≤ 50) ∧
      (5 ≤ field r.w0 24 8 ∧ field r.w0 24 8 ≤ 100) ∧ (10 ≤ field r.w1 0 16 ∧ field r.w1 0 16 ≤ 600) ∧
      (10 ≤ field r.w1 16 16 ∧ field r.w1 16 16 ≤ 600) ∧ (5 ≤ field r.w2 0 16 ∧ field r.w2 0 16 ≤ 200) ∧
      (110 ≤ field r.w2 16 16 ∧ field r.w2 16 16 ≤ 400)) ∧
    (r.fieldsInRange .node = true ↔ field r.w0 0 2 ≤ 1) ∧ r.fieldsInRange .pipe = true ∧
    (r.fieldsInRange .valve = true ↔
      (1 ≤ field r.w1 0 4 ∧ field r.w1 0 4 ≤ 8) ∧ field r.w1 4 2 ≤ 1 ∧ (2 ≤ field r.w1 8 5 ∧ field r.w1 8 5 ≤ 16) ∧
      (field r.w1 16 10 = 0 ∨ (50 ≤ field r.w1 16 10 ∧ field r.w1 16 10 ≤ 500)) ∧
      (10 ≤ field r.w2 0 16 ∧ field r.w2 0 16 ≤ 3600)) ∧
    (r.fieldsInRange .sensor = true ↔
      field r.w0 0 2 ≤ 1 ∧ field r.w0 2 2 ≤ 1 ∧ (2 ≤ field r.w1 8 4 ∧ field r.w1 8 4 ≤ 8) ∧ 1 ≤ field r.w1 16 15 ∧
      (1 ≤ field r.w2 0 10 ∧ field r.w2 0 10 ≤ 600) ∧ (10 ≤ field r.w2 10 12 ∧ field r.w2 10 12 ≤ 3000) ∧
      (4 ≤ field r.w2 22 7 ∧ field r.w2 22 7 ≤ 64)) ∧
    (r.fieldsInRange .cell = true ↔
      1 ≤ field r.w0 0 16 ∧ (1 ≤ field r.w0 16 10 ∧ field r.w0 16 10 ≤ 600) ∧ field r.w1 0 13 ≤ 6000 ∧
      (-1000000 ≤ r.w2.toInt ∧ r.w2.toInt ≤ 1000000)) ∧
    (r.fieldsInRange .cellMeter = true ↔ field r.w0 0 16 ≤ 1023 ∧ (field r.w0 16 2 = 1 ∨ field r.w0 16 2 = 2))) ∧
  ∀ (s : State) (slot : BitVec 12) (w0 w1 w2 w3 : Word) (m : Master) (why : RecordReason), s.ImageReady slot w0 w1 w2 →
    s.net.Settled → imageRefusal s.net (imageRecordOf w0 w1 w2 w3) = some why →
    exec (.imageRecord slot w3 m) s = .next (s.afterRecord (.image slot 3) w3 m (judgeAttn
      (recordError s.env .image why
        { slot := some slot.toNat, kind := some (field w3 0 4), id := some (field w3 16 16) } s.net)))

/-- An accepted GLOBAL, NODE, PIPE or VALVE record writes its fields into its entry and makes it STAGED; the runtime fields and all
other entries stay (R2, R3, R4, R8, R11, R193). -/
def Obligations.TopologyRecordStagesItsEntry : Prop :=
  ∀ (s : State) (slot : BitVec 12) (w0 w1 w2 w3 : Word) (m : Master), s.ImageReady slot w0 w1 w2 → s.net.Settled →
    imageRefusal s.net (imageRecordOf w0 w1 w2 w3) = none → flagBit w3 7 = false →
    let id := field w3 16 16
    let after := fun n => Host.Outcome.next (s.afterRecord (.image slot 3) w3 m (judgeAttn n))
    (field w3 0 4 = 1 → exec (.imageRecord slot w3 m) s = after { s.net with globals := ⟨.staged, {
      closedTolerance := field w0 0 8, openTolerance := field w0 8 8, progressStep := field w0 16 8
      reverseTolerance := field w0 24 8, progressWindow := field w1 0 16, pickupTimeout := field w1 16 16
      breachMargin := field w2 0 16, deadlineMargin := field w2 16 16 }⟩ }) ∧
    (field w3 0 4 = 2 → exec (.imageRecord slot w3 m) s = after (s.net.setNode id { s.net.node id with
      tag := .staged, kind := if field w0 0 2 = 1 then .source else .junction, guarded := flagBit w0 8 })) ∧
    (field w3 0 4 = 3 → exec (.imageRecord slot w3 m) s = after (s.net.setPipe id { s.net.pipe id with
      tag := .staged, endA := field w0 0 12, endB := field w0 16 12 })) ∧
    (field w3 0 4 = 4 → exec (.imageRecord slot w3 m) s = after (s.net.setValve id { s.net.valve id with
      tag := .staged, endA := field w0 0 12, endB := field w0 16 12, diameter := field w1 0 4
      normal := if field w1 4 2 = 1 then .closed else .opened, divisor := field w1 8 5
      crossover := if field w1 16 10 = 0 then 150 else field w1 16 10, strokeTime := field w2 0 16 }))

/-- An accepted SENSOR or CELL record writes its fields into its entry and makes it STAGED; an accepted CELL_METER record appends its
meter to its cell's list (R5, R6, R7, R11, R13, R193). -/
def Obligations.SensorHalfRecordStagesItsEntry : Prop :=
  ∀ (s : State) (slot : BitVec 12) (w0 w1 w2 w3 : Word) (m : Master), s.ImageReady slot w0 w1 w2 → s.net.Settled →
    imageRefusal s.net (imageRecordOf w0 w1 w2 w3) = none → flagBit w3 7 = false →
    let id := field w3 16 16
    let after := fun n => Host.Outcome.next (s.afterRecord (.image slot 3) w3 m (judgeAttn n))
    (field w3 0 4 = 5 → exec (.imageRecord slot w3 m) s = after (s.net.setSensor id { s.net.sensor id with
      tag := .staged, kind := if field w0 0 2 = 1 then .flow else .pressure
      format := if field w0 2 2 = 1 then .decimal else .binary, site := field w0 16 13, cell := field w1 0 6
      shift := field w1 8 4, threshold := field w1 16 15, persistence := field w2 0 10, lossTimeout := field w2 10 12
      learningCount := field w2 22 7 })) ∧
    (field w3 0 4 = 6 → exec (.imageRecord slot w3 m) s = after (s.net.setCell id { s.net.cell id with
      tag := .staged, threshold := field w0 0 16, persistence := field w0 16 10
      required := if field w0 26 4 = 0 then 3 else field w0 26 4, policy := if flagBit w0 30 then .confirm else .auto
      holdExpiry := field w1 0 13, centre := field w1 16 16, demand := w2.toInt })) ∧
    (field w3 0 4 = 7 → exec (.imageRecord slot w3 m) s = after (s.net.setCell id { s.net.cell id with
      meters := (s.net.cell id).meters ++ [⟨field w0 0 16, field w0 16 2 == 2⟩] }))

/-- An accepted delete record puts its entry at its device-reset values; that of CELL_METER removes its meter and nothing else (R12,
R13). -/
def Obligations.DeleteRecordEmptiesItsEntry : Prop :=
  ∀ (s : State) (slot : BitVec 12) (w0 w1 w2 w3 : Word) (m : Master), s.ImageReady slot w0 w1 w2 → s.net.Settled →
    imageRefusal s.net (imageRecordOf w0 w1 w2 w3) = none → flagBit w3 7 = true →
    let id := field w3 16 16
    let after := fun n => Host.Outcome.next (s.afterRecord (.image slot 3) w3 m (judgeAttn n))
    (field w3 0 4 = 1 → exec (.imageRecord slot w3 m) s = after { s.net with globals := {} }) ∧
    (field w3 0 4 = 2 → exec (.imageRecord slot w3 m) s = after (s.net.setNode id {})) ∧
    (field w3 0 4 = 3 → exec (.imageRecord slot w3 m) s = after (s.net.setPipe id {})) ∧
    (field w3 0 4 = 4 → exec (.imageRecord slot w3 m) s = after (s.net.setValve id {})) ∧
    (field w3 0 4 = 5 → exec (.imageRecord slot w3 m) s = after (s.net.setSensor id {})) ∧
    (field w3 0 4 = 6 → exec (.imageRecord slot w3 m) s = after (s.net.setCell id {})) ∧
    (field w3 0 4 = 7 → exec (.imageRecord slot w3 m) s = after (s.net.setCell id { s.net.cell id with
      meters := (s.net.cell id).meters.filter fun x => x.sensor != field w0 0 16 }))

/-! ### Sensors -/

/-- The seven disposals of a sample before the state machine: refused twice, dropped, a repeat, BAD_DIGIT, BAD and DOUBTFUL (R44 to
R49). -/
def Obligations.SampleDisposedBeforeTheStateMachine : Prop :=
  ∀ (s : State) (slot : BitVec 10) (w0 w1 : Word) (m : Master), s.SampleReady slot w0 → s.net.Settled →
    let k := slot.toNat
    let x := s.net.sensor k
    let id := field w1 0 10
    let quality := field w1 10 2
    let sequence := BitVec.ofNat 16 (field w1 16 16)
    let after := fun n => Host.Outcome.next (s.afterRecord (.sample slot 1) w1 m (judgeAttn n))
    (id ≠ k → exec (.sampleRecord slot w1 m) s =
      after (recordError s.env .sample .slotMismatch { slot := some k, id := some id } s.net)) ∧
    (id = k → quality = 3 → exec (.sampleRecord slot w1 m) s =
      after (recordError s.env .sample .fieldRange { slot := some k, id := some id } s.net)) ∧
    (id = k → quality ≠ 3 → (s.net.live = false ∨ x.tag ≠ .adopted) → exec (.sampleRecord slot w1 m) s =
      after { s.net with dropped := min (s.net.dropped + 1) 65535 }) ∧
    (id = k → quality ≠ 3 → s.net.live = true → x.tag = .adopted →
      (x.lastSequence = some sequence → exec (.sampleRecord slot w1 m) s =
        after (s.net.setSensor k { x with repeats := min (x.repeats + 1) 65535 })) ∧
      (x.lastSequence ≠ some sequence →
        (sampleValue x.format w0 = none → exec (.sampleRecord slot w1 m) s =
          after (s.net.setSensor k { x with lastSequence := some sequence, badDigit := min (x.badDigit + 1) 65535 })) ∧
        (sampleValue x.format w0 ≠ none → quality = 2 → exec (.sampleRecord slot w1 m) s =
          after (s.net.setSensor k { x with lastSequence := some sequence, bad := min (x.bad + 1) 65535 })) ∧
        (sampleValue x.format w0 ≠ none → quality = 1 → exec (.sampleRecord slot w1 m) s =
          after (s.net.setSensor k { x with
            lastSequence := some sequence, doubtful := min (x.doubtful + 1) 65535
            loss := if x.state = .lost then x.loss else some (s.time + BitVec.ofNat 32 x.lossTimeout) }))))

/-- A GOOD sample is counted, restarts the loss timer, is taken by the state machine, and gives a sensor notice (R44, R46, R48, R49,
R58). -/
def Obligations.GoodSampleTakenByTheStateMachine : Prop :=
  ∀ (s : State) (slot : BitVec 10) (w0 w1 : Word) (m : Master) (v : Int), s.SampleReady slot w0 →
    let k := slot.toNat
    let x := s.net.sensor k
    let sequence := BitVec.ofNat 16 (field w1 16 16)
    field w1 0 10 = k → field w1 10 2 = 0 → s.net.live = true → x.tag = .adopted → x.lastSequence ≠ some sequence →
    sampleValue x.format w0 = some v →
    exec (.sampleRecord slot w1 m) s = .next (s.afterRecord (.sample slot 1) w1 m (settle s.env (noteSensors [k]
      (s.net.setSensor k (Sensor.stepGood { x with
        lastSequence := some sequence, good := min (x.good + 1) 65535
        loss := some (s.time + BitVec.ofNat 32 x.lossTimeout) } s.time v)))))

/-- What a GOOD sample does in each state of the sensor: learning, the start and the end of an excursion, the held trip, and the way
out of LOST (R51 to R57). -/
def Obligations.SensorStateRules : Prop :=
  ∀ (x : Sensor) (now : Time) (v : Int),
    let d := x.deviation v
    let y := x.stepGood now v
    (x.state = .learning → x.seeded = false → y = { x with
      lastGood := some v, baseline := v * 256, seeded := true, remaining := x.remaining - 1
      state := if x.remaining - 1 = 0 then .normal else .learning }) ∧
    (x.state = .learning → x.seeded = true → y = { x with
      lastGood := some v, baseline := x.baseline + (v * 256 - x.baseline) >>> x.shift, remaining := x.remaining - 1
      state := if x.remaining - 1 = 0 then .normal else .learning }) ∧
    (x.state = .normal → (x.threshold : Int) < d → y = { x with
      lastGood := some v, lastDeviation := d, state := .excursion
      persist := some (now + BitVec.ofNat 32 x.persistence) }) ∧
    (x.state = .normal → d ≤ (x.threshold : Int) → y = { x with
      lastGood := some v, lastDeviation := d, baseline := x.baseline + (v * 256 - x.baseline) >>> x.shift }) ∧
    (x.state = .excursion → (x.threshold : Int) < d → y = { x with lastGood := some v, lastDeviation := d }) ∧
    (x.state = .excursion → d ≤ (x.threshold : Int) → y = { x with
      lastGood := some v, lastDeviation := d, state := .normal, persist := none }) ∧
    (x.state = .tripped → d < ((x.threshold / 2 : Nat) : Int) → y = { x with
      lastGood := some v, lastDeviation := d, state := .normal }) ∧
    (x.state = .tripped → ((x.threshold / 2 : Nat) : Int) ≤ d → y = { x with lastGood := some v, lastDeviation := d }) ∧
    (x.state = .lost → y = { x with
      lastGood := some v, lastDeviation := 0, persist := none, baseline := v * 256, seeded := true
      remaining := x.learningCount - 1, state := if x.learningCount - 1 = 0 then .normal else .learning }) ∧
    (x.kind = .pressure → d = x.baseline.tdiv 256 - v) ∧
    (x.kind = .flow → d = (v.natAbs : Int) - ((x.baseline.tdiv 256).natAbs : Int))

/-- A BINARY sample is the low 16 bits in two's complement, a DECIMAL sample the sum of its four digits, made negative by the sign flag,
and none with a digit above 9, so that converted samples stay in the range of their format (R47); an update never carries the baseline
past the sample's value × 256 (R51). -/
def Obligations.BaselineNeverPassesTheSample : Prop :=
  (∀ (x : Sensor) (v : Int),
    (x.baseline ≤ v * 256 → x.baseline ≤ (x.update v).baseline ∧ (x.update v).baseline ≤ v * 256) ∧
    (v * 256 < x.baseline → v * 256 ≤ (x.update v).baseline ∧ (x.update v).baseline < x.baseline)) ∧
  (∀ w : Word,
    let low : Nat := w.toNat % 2 ^ 16
    let digits : Nat := field w 12 4 * 1000 + field w 8 4 * 100 + field w 4 4 * 10 + field w 0 4
    sampleValue .binary w = some (if low < 2 ^ 15 then (low : Int) else (low : Int) - 2 ^ 16) ∧
    (field w 0 4 ≤ 9 → field w 4 4 ≤ 9 → field w 8 4 ≤ 9 → field w 12 4 ≤ 9 →
      sampleValue .decimal w = some (if w.getLsbD 31 then -(digits : Int) else (digits : Int)))) ∧
  (∀ (w : Word) (v : Int), sampleValue .binary w = some v → -32768 ≤ v ∧ v ≤ 32767) ∧
  (∀ (w : Word) (v : Int), sampleValue .decimal w = some v → -9999 ≤ v ∧ v ≤ 9999) ∧
  ∀ w : Word, sampleValue .decimal w = none ↔
    9 < field w 0 4 ∨ 9 < field w 4 4 ∨ 9 < field w 8 4 ∨ 9 < field w 12 4

/-- The loss timer takes a supervised sensor to LOST, sets its latch and raises SENSOR_LOST; the persistence timer takes an excursion
to TRIPPED; a sensor is supervised in its four running states; a timer that is not due does nothing (R49, R55, R58; log 3, 4). -/
def Obligations.SensorTimersExpire : Prop :=
  (∀ x : Sensor, x.supervised = true ↔
    x.state = .learning ∨ x.state = .normal ∨ x.state = .excursion ∨ x.state = .tripped) ∧
  ∀ (s : State) (sensor : BitVec 10), s.resetAsserted = false →
    let k := sensor.toNat
    let x := s.net.sensor k
    (x.supervised = true → timerDue x.loss s.time = true → exec (.sensorLossExpiry sensor) s = .next { s with
      net := settle s.env (noteSensors [k] (raise s.env .sensorLost k 0 (s.net.setSensor k { x with
        state := .lost, loss := none, persist := none, latch := true }))) }) ∧
    (x.state = .excursion → timerDue x.persist s.time = true → exec (.sensorPersistenceExpiry sensor) s = .next { s with
      net := settle s.env (noteSensors [k] (s.net.setSensor k { x with state := .tripped, persist := none })) }) ∧
    (s.net.Settled → x.supervised = false ∨ timerDue x.loss s.time = false →
      exec (.sensorLossExpiry sensor) s = .next { s with net := judgeAttn s.net }) ∧
    (s.net.Settled → x.state ≠ .excursion ∨ timerDue x.persist s.time = false →
      exec (.sensorPersistenceExpiry sensor) s = .next { s with net := judgeAttn s.net })

/-- REBASELINE restarts the learning of the ADOPTED sensors of its cell, or of all, that are in one of the four running states, and
shows their number; a cell that is not ADOPTED is refused (R60, R61); a restarted sensor no longer counts as shown
tripped (R75; log 10), and its baseline stays until it learns again, the model's reading (log 35). The sensors whose state it changes
get a notice, one already in LEARNING none (R58; log 12). -/
def Obligations.RebaselineRestartsLearning : Prop :=
  (∀ (s : State) (w : ControlWrite) (w0 w1 w2 : Word), s.ControlReady w0 w1 w2 → s.net.live = true →
    (w0 = 0xFFFFFFFF#32 → exec (.rebaseline w) s = .next (s.afterControl w 11 .accepted
      (rebaselineCount (fun _ => true) s.net) (settle s.env (rebaseline (fun _ => true) s.net)))) ∧
    (w0.toNat < 64 → (s.net.cell w0.toNat).tag = .adopted → exec (.rebaseline w) s = .next (s.afterControl w 11 .accepted
      (rebaselineCount (fun x => x.cell == w0.toNat) s.net)
      (settle s.env (rebaseline (fun x => x.cell == w0.toNat) s.net)))) ∧
    (s.net.Settled → w0 ≠ 0xFFFFFFFF#32 → 64 ≤ w0.toNat ∨ (s.net.cell w0.toNat).tag ≠ .adopted →
      exec (.rebaseline w) s = .next (s.afterControl w 11 .badId 0 (judgeAttn s.net)))) ∧
  (∀ (p : Sensor → Bool) (n : Net) (l : List Nat), n.Canonical →
    Enumerates l (fun k => p (n.sensor k) = true ∧ (n.sensor k).tag = .adopted ∧ (n.sensor k).supervised = true) →
    rebaselineCount p n = l.length) ∧
  ∀ (p : Sensor → Bool) (n : Net), n.Canonical → ∀ k,
    (k ∈ (rebaseline p n).agenda.sensors ↔ k ∈ n.agenda.sensors ∨ (p (n.sensor k) = true ∧ (n.sensor k).tag = .adopted ∧
      (n.sensor k).supervised = true ∧ (n.sensor k).state ≠ .learning)) ∧
    (p (n.sensor k) = true → (n.sensor k).tag = .adopted → (n.sensor k).supervised = true →
      (rebaseline p n).sensor k = { n.sensor k with
        state := .learning, seeded := false, remaining := (n.sensor k).learningCount, persist := none
        lastDeviation := 0, shown := false }) ∧
    (p (n.sensor k) = false ∨ (n.sensor k).tag ≠ .adopted ∨ (n.sensor k).supervised = false →
      (rebaseline p n).sensor k = n.sensor k)

/-! ### Cells -/

/-- A recomputed imbalance moves a cell between QUIET, WATCH and TRIPPED by the threshold and its half; SUSPENDED and IDLE stay (R63,
R66, R68). -/
def Obligations.CellStatesFollowTheImbalance : Prop :=
  ∀ (c : Cell) (now : Time),
    let above := c.known = true ∧ (c.threshold : Int) < c.imbalance
    let low := c.known = false ∨ c.imbalance ≤ ((c.threshold / 2 : Nat) : Int)
    (c.state = .quiet → above → c.judged now = { c with
      state := .watch, persist := some (now + BitVec.ofNat 32 c.persistence) }) ∧
    (c.state = .quiet → ¬ above → c.judged now = c) ∧
    (c.state = .watch → above → c.judged now = c) ∧
    (c.state = .watch → ¬ above → c.judged now = { c with state := .quiet, persist := none }) ∧
    (c.state = .tripped → low → c.judged now = { c with state := .quiet }) ∧
    (c.state = .tripped → ¬ low → c.judged now = c) ∧
    (c.state = .suspended ∨ c.state = .idle → c.judged now = c)

/-- The persistence timer takes a cell in WATCH to TRIPPED and its score is re-evaluated (R67); an expiry that is not due, or of a cell
not in WATCH, changes nothing (log 3, 4). The score of an active cell is 2 when it is TRIPPED and 1 for each of its ADOPTED sensors that
its last notice showed TRIPPED and not masked, at most 31; it is 0 in IDLE and SUSPENDED (R71). The Locator runs exactly when the score
of an active cell rises to the required score (R72). A sensor notice shows its sensor as it stands and is taken by the ADOPTED cells it
concerns: a cell that meters the sensor is recomputed, and the score of each is re-evaluated (R58, R59, R65, R71; log 10; what
a notice shows of a change that came before it in the event: log 36). That a sensor whose entry is EMPTY is not masked is the model's
reading (R194; log 20). -/
def Obligations.CellTimerTripsTheCell : Prop :=
  (∀ (s : State) (cell : BitVec 6), s.resetAsserted = false →
    let k := cell.toNat
    let c := s.net.cell k
    (c.state = .watch → timerDue c.persist s.time = true → exec (.cellPersistenceExpiry cell) s = .next { s with
      net := settle s.env (evaluate s.env k (s.net.setCell k { c with state := .tripped, persist := none })) }) ∧
    (s.net.Settled → c.state ≠ .watch ∨ timerDue c.persist s.time = false →
      exec (.cellPersistenceExpiry cell) s = .next { s with net := judgeAttn s.net })) ∧
  (∀ (e : Env) (k : Nat) (n : Net), n.Canonical →
    let c := n.cell k
    let score := scoreOf n k c
    let scored := n.setCell k { c with score := score }
    let rises := c.score < c.required ∧ c.required ≤ score
    let shown := n.sensors.countP fun kv => kv.2.tag = .adopted && kv.2.cell = k && kv.2.shown
    (c.state = .tripped → score = min (2 + shown) 31) ∧ (c.state = .quiet ∨ c.state = .watch → score = min shown 31) ∧
    (c.state = .idle ∨ c.state = .suspended → score = 0) ∧
    (c.active = true → rises → evaluate e k n = locate e k scored) ∧
    (c.active = false ∨ ¬ rises → evaluate e k n = scored)) ∧
  ∀ (e : Env) (j : Nat) (n : Net), n.Canonical →
    let x := n.sensor j
    takeSensorNotice e j n = (cellsOf n j).foldl (fun n k => takeCell e j k n) (n.setSensor j { x with
      shown := decide (x.state = .tripped ∧ masked n x = false) }) ∧
    (masked n x = true ↔ x.tag ≠ .empty ∧ ((x.kind = .pressure ∧ (n.node x.site).owner ≠ none) ∨
      (x.kind = .flow ∧ (n.pipe x.site).owner ≠ none))) ∧
    (cellsOf n j).Pairwise (· < ·) ∧
    (∀ k, k ∈ cellsOf n j ↔ (n.cell k).tag = .adopted ∧ (x.cell = k ∨ ∃ m ∈ (n.cell k).meters, m.sensor = j)) ∧
    ∀ k, ((∃ m ∈ (n.cell k).meters, m.sensor = j) → takeCell e j k n = evaluate e k (recompute e k n)) ∧
      ((∀ m ∈ (n.cell k).meters, m.sensor ≠ j) → takeCell e j k n = evaluate e k n)

/-- The candidates of a cell are its ADOPTED, unmasked PRESSURE sensors in EXCURSION or TRIPPED; the winner of a Locator run is a usable
candidate with the largest ratio, the lowest id among equals; its site is the origin; without a winner no candidate is usable, the ratio
is 0 and the origin is the cell's centre node; the two skip counts count the other candidates (R73, R74). -/
def Obligations.LocatorPicksTheLargestRatio : Prop :=
  (∀ x : Sensor,
    let b := x.baseline.tdiv 256
    let ratio := (x.lastDeviation * 1000).tdiv b
    (b ≤ 0 → x.finding = .zeroBaseline) ∧ (0 < b → 1000 < ratio → x.finding = .ratioRange) ∧
    (0 < b → ratio ≤ 1000 → x.finding = .usable ratio.toNat)) ∧
  ∀ (n : Net) (k : Nat), n.Canonical →
    (∀ j, j ∈ candidates n k ↔ (n.sensor j).tag = .adopted ∧ (n.sensor j).kind = .pressure ∧ (n.sensor j).cell = k ∧
      (n.node (n.sensor j).site).owner = none ∧ ((n.sensor j).state = .excursion ∨ (n.sensor j).state = .tripped)) ∧
    (match (findings n k).winner with
      | some (id, ratio) => id ∈ candidates n k ∧ (n.sensor id).finding = .usable ratio ∧
          (∀ j ∈ candidates n k, ∀ r, (n.sensor j).finding = .usable r → r < ratio ∨ (r = ratio ∧ id ≤ j)) ∧
          originOf n (n.cell k) (findings n k) = (n.sensor id).site ∧ (findings n k).ratio = ratio
      | none => (∀ j ∈ candidates n k, ∀ r, (n.sensor j).finding ≠ .usable r) ∧
          originOf n (n.cell k) (findings n k) = (n.cell k).centre ∧ (findings n k).ratio = 0) ∧
    (findings n k).zeroBaseline = (candidates n k).countP (fun j => (n.sensor j).finding = .zeroBaseline) ∧
    (findings n k).ratioRange = (candidates n k).countP (fun j => (n.sensor j).finding = .ratioRange)

/-- A Locator run ends in absorption, in NO_INCIDENT or in an opening for the lowest free incident, by the owner of the origin, which
is the winner's site or without one the cell's centre, and the free incidents; an ADOPTED cell that opens an incident is
SUSPENDED (R69, R74 to R77); that it is so at once, before its incident notice is taken, is the model's choice (log 15). Absorption
re-baselines the sensors of the cell and re-evaluates its score (R75). A re-evaluation suspends the active cells that an incident in
SEARCHING, CHECKING, HELD or CLOSING names among its origins; it ends the suspension of those that none names, re-baselines their
sensors together, and recomputes and scores each (R69, R70), no run of the Locator among it (log 29). An incident notice re-evaluates,
and one of an entry into FREE then sweeps: the Locator runs for each waiting cell in ascending order while an incident is FREE (R76). -/
def Obligations.LocatorEndsInOneOfThreeOutcomes : Prop :=
  (∀ (e : Env) (k : Nat) (n : Net), n.Canonical →
    let c := n.cell k
    let f := findings n k
    let origin := originOf n c f
    let t := locate e k n
    (∀ w, (n.node origin).owner = some w →
      (t.cell k).state = .quiet ∧ (t.cell k).persist = none ∧ (t.cell k).absorbed = min (c.absorbed + 1) 65535 ∧
      (t.cell k).location = some ⟨.absorbed, e.time, origin, f.winner.map Prod.fst, f.ratio, f.zeroBaseline, f.ratioRange,
        some w.incident⟩ ∧
      t.incidents = n.incidents ∧ t.causes = n.causes ∧
      let moved := rebaseline (fun x => x.cell == k) (n.setCell k { c with
        state := .quiet, persist := none, absorbed := min (c.absorbed + 1) 65535
        location := some ⟨.absorbed, e.time, origin, f.winner.map Prod.fst, f.ratio, f.zeroBaseline, f.ratioRange,
          some w.incident⟩ })
      t = moved.setCell k { moved.cell k with score := scoreOf moved k (moved.cell k) }) ∧
    ((n.node origin).owner = none → (∀ i, i < 8 → (n.incident i).state ≠ .free) →
      t = raise e .noIncident k origin (n.setCell k { c with location := some ⟨.noIncident, e.time, origin,
        f.winner.map Prod.fst, f.ratio, f.zeroBaseline, f.ratioRange, none⟩ })) ∧
    ∀ i, (n.node origin).owner = none → i < 8 → (n.incident i).state = .free → (∀ j, j < i → (n.incident j).state ≠ .free) →
      (t.incident i).state = .searching ∧ (t.incident i).origins = [⟨origin, some k, e.time⟩] ∧
      (t.incident i).policy = c.policy ∧ (t.incident i).holdExpiry = c.holdExpiry ∧
      (t.incident i).note = ⟨f.winner.map Prod.fst, f.ratio, f.zeroBaseline + f.ratioRange⟩ ∧
      (t.cell k).location = some ⟨.opened, e.time, origin, f.winner.map Prod.fst, f.ratio, f.zeroBaseline, f.ratioRange,
        some i⟩ ∧
      (c.tag = .adopted → c.active = true →
        (t.cell k).state = .suspended ∧ (t.cell k).persist = none ∧ (t.cell k).score = 0)) ∧
  (∀ (n : Net) (c : Cell) (f : Findings),
    (∀ id ratio, f.winner = some (id, ratio) → originOf n c f = (n.sensor id).site ∧ f.ratio = ratio) ∧
    (f.winner = none → originOf n c f = c.centre ∧ f.ratio = 0)) ∧
  (∀ c : Cell, c.active = true ↔ c.state = .quiet ∨ c.state = .watch ∨ c.state = .tripped) ∧
  (∀ (e : Env) (n : Net) (begins ends : List Nat), n.Canonical →
    let named := fun k => ∃ i, i < 8 ∧ ((n.incident i).state = .searching ∨ (n.incident i).state = .checking ∨
      (n.incident i).state = .held ∨ (n.incident i).state = .closing) ∧ ∃ o ∈ (n.incident i).origins, o.cell = some k
    Enumerates begins (fun k => (n.cell k).tag = .adopted ∧ (n.cell k).active = true ∧ named k) →
    Enumerates ends (fun k => (n.cell k).tag = .adopted ∧ (n.cell k).state = .suspended ∧ ¬ named k) →
    let begun := begins.foldl (fun n k => n.setCell k { n.cell k with state := .suspended, persist := none, score := 0 }) n
    let ended := ends.foldl (fun n k => n.setCell k { n.cell k with state := .quiet }) begun
    let judged := fun (n : Net) (k : Nat) =>
      (recompute e k n).setCell k { (recompute e k n).cell k with
        score := scoreOf (recompute e k n) k ((recompute e k n).cell k) }
    (ends = [] → reevaluate e n = ended) ∧
    (ends ≠ [] → reevaluate e n = ends.foldl judged (rebaseline (fun x => decide (x.cell ∈ ends)) ended))) ∧
  (∀ (e : Env) (n : Net) (cells : List Nat), n.Canonical → Enumerates cells (fun k => (n.cell k).tag = .adopted) →
    sweep e n = cells.foldl (fun n k =>
      if (n.cell k).active = true ∧ (n.cell k).required ≤ (n.cell k).score ∧ ∃ i ∈ List.range 8, (n.incident i).state = .free
      then locate e k n else n) n) ∧
  ∀ (e : Env) (n : Net),
    takeIncidentNotice e true n = sweep e (reevaluate e n) ∧ takeIncidentNotice e false n = reevaluate e n

/-- SET_DEMAND replaces the demand, recomputes the imbalance and re-evaluates the score, or is refused (R78). The imbalance is known
when the cell has meters and each one's sensor is in NORMAL, EXCURSION or TRIPPED, has a GOOD value and is not masked; it is then the
sum of the last GOOD values by their orientations less the demand (R64). That a bad id is refused as BAD_ID whatever the value is the
model's choice (log 39). A recomputation writes it, 0 while it is not known, and the
cell's state follows; a cell in IDLE ignores it (R63, R65). -/
def Obligations.SetDemandRequest : Prop :=
  (∀ (s : State) (w : ControlWrite) (w0 w1 w2 : Word), s.ControlReady w0 w1 w2 → s.net.live = true →
    let k := w0.toNat
    let v := w1.toInt
    (k < 64 → (s.net.cell k).tag = .adopted → -1000000 ≤ v → v ≤ 1000000 →
      exec (.setDemand w) s = .next (s.afterControl w 10 .accepted 0 (settle s.env (evaluate s.env k (recompute s.env k
        (s.net.setCell k { s.net.cell k with demand := v })))))) ∧
    (s.net.Settled → 64 ≤ k ∨ (s.net.cell k).tag ≠ .adopted →
      exec (.setDemand w) s = .next (s.afterControl w 10 .badId 0 (judgeAttn s.net))) ∧
    (s.net.Settled → k < 64 → (s.net.cell k).tag = .adopted → v < -1000000 ∨ 1000000 < v →
      exec (.setDemand w) s = .next (s.afterControl w 10 .badArgument 0 (judgeAttn s.net)))) ∧
  (∀ (n : Net) (c : Cell),
    let judged := fun m : Meter => let x := n.sensor m.sensor
      (x.state = .normal ∨ x.state = .excursion ∨ x.state = .tripped) ∧ x.lastGood ≠ none ∧ masked n x = false
    let share := fun m : Meter => let v := (n.sensor m.sensor).lastGood.getD 0
      if m.outward then -v else v
    (c.meters ≠ [] → (∀ m ∈ c.meters, judged m) → imbalanceOf n c = some ((c.meters.map share).sum - c.demand)) ∧
    (c.meters = [] ∨ (∃ m ∈ c.meters, ¬ judged m) → imbalanceOf n c = none)) ∧
  ∀ (e : Env) (k : Nat) (n : Net),
    let c := n.cell k
    (c.state = .idle → recompute e k n = n) ∧
    (c.state ≠ .idle →
      (∀ v, imbalanceOf n c = some v →
        recompute e k n = n.setCell k (Cell.judged { c with known := true, imbalance := v } e.time)) ∧
      (imbalanceOf n c = none →
        recompute e k n = n.setCell k (Cell.judged { c with known := false, imbalance := 0 } e.time)))

/-! ### Incidents -/

/-- ISOLATE_NODE is refused for the first reason that applies, or opens the lowest FREE incident for the node with policy AUTO (R86,
R198). -/
def Obligations.IsolateNodeRequest : Prop :=
  ∀ (s : State) (w : ControlWrite) (w0 w1 w2 : Word), s.ControlReady w0 w1 w2 → s.net.live = true →
    let k := w0.toNat
    let x := s.net.node k
    let refused := fun why => exec (.isolateNode w) s = .next (s.afterControl w 4 why 0 (judgeAttn s.net))
    (s.net.Settled → 4096 ≤ k ∨ x.tag ≠ .adopted → refused .badId) ∧
    (s.net.Settled → k < 4096 → x.tag = .adopted → x.kind = .source → refused .badNode) ∧
    (s.net.Settled → k < 4096 → x.tag = .adopted → x.kind = .junction → x.owner ≠ none → refused .regionActive) ∧
    (s.net.Settled → k < 4096 → x.tag = .adopted → x.kind = .junction → x.owner = none →
      (∀ i, i < 8 → (s.net.incident i).state ≠ .free) → refused .noIncident) ∧
    ∀ i, k < 4096 → x.tag = .adopted → x.kind = .junction → x.owner = none → i < 8 → (s.net.incident i).state = .free →
      (∀ j, j < i → (s.net.incident j).state ≠ .free) →
      exec (.isolateNode w) s = .next (s.afterControl w 4 .accepted i (settle s.env (noteIncident i
        (openIncident s.env i ⟨k, none, .auto, 0, ⟨none, 0, 0⟩⟩ s.net))))

/-- An opening overwrites the incident's record, claims the origin node at level 0, queues or starts the level-0 walk and raises
OPENED; the ADOPTED PRESSURE sensors sited at the origin, masked by the claim, get a notice (R58, R59, R82, R84, R85, R104, R181). -/
def Obligations.OpeningWritesTheIncident : Prop :=
  ∀ (e : Env) (i : Nat) (o : Opening) (n : Net), n.Canonical → n.Working →
    let t := openIncident e i o n
    (t.incident i = {
      state := .searching, origins := [⟨o.node, o.cell, e.time⟩], policy := o.policy, holdExpiry := o.holdExpiry
      generation := (n.incident i).generation + 1, frames := [⟨0, [], [o.node], [], 1, 0, false⟩]
      marker := if n.walker = none then .running else .queued, note := o.note, timeOpened := e.time }) ∧
    (∀ j, j ≠ i → t.incident j = n.incident j) ∧
    t.node o.node = { n.node o.node with owner := some ⟨i, 0⟩ } ∧ (∀ j, j ≠ o.node → t.node j = n.node j) ∧
    (∀ j, j ∈ t.agenda.sensors ↔ j ∈ n.agenda.sensors ∨
      ((n.sensor j).tag = .adopted ∧ (n.sensor j).kind = .pressure ∧ (n.sensor j).site = o.node)) ∧
    (n.walker = none → t.walker = some ⟨.boundary i 0, false⟩ ∧ t.jobs = []) ∧
    (n.walker ≠ none → t.walker = n.walker ∧ t.jobs = n.jobs ++ [.boundary i 0]) ∧
    t.cause 1 = { n.cause 1 with
      flag := true, count := min ((n.cause 1).count + 1) 65535, time := e.time, subject := BitVec.ofNat 32 i
      detail := BitVec.ofNat 32 o.node }

/-- CONFIRM takes a HELD incident into CLOSING and shows the close requests made; the expiry of the timer of a POLICY hold acts as
CONFIRM and writes no control result (R90, R91; log 3). -/
def Obligations.ConfirmAndHoldExpiryEnterClosing : Prop :=
  (∀ (s : State) (w : ControlWrite) (w0 w1 w2 : Word), s.ControlReady w0 w1 w2 → s.net.live = true →
    let i := w0.toNat
    (i < 8 → (s.net.incident i).state = .held → exec (.confirm w) s =
      .next (s.afterControl w 5 .accepted (requestsAtClosing s.net i).length (settle s.env (enterClosing s.env i s.net)))) ∧
    (s.net.Settled → 8 ≤ i → exec (.confirm w) s = .next (s.afterControl w 5 .badId 0 (judgeAttn s.net))) ∧
    (s.net.Settled → i < 8 → (s.net.incident i).state ≠ .held → exec (.confirm w) s =
      .next (s.afterControl w 5 .wrongState (s.net.incident i).state.code (judgeAttn s.net)))) ∧
  ∀ (s : State) (incident : BitVec 3), s.resetAsserted = false →
    let r := s.net.incident incident.toNat
    (r.state = .held → r.holdReason = .policy → timerDue r.holdTimer s.time = true →
      exec (.holdExpiry incident) s = .next { s with net := settle s.env (enterClosing s.env incident.toNat s.net) }) ∧
    (s.net.Settled → r.state ≠ .held ∨ r.holdReason ≠ .policy ∨ timerDue r.holdTimer s.time = false →
      exec (.holdExpiry incident) s = .next { s with net := judgeAttn s.net })

/-- The entry into CLOSING checks every frame, ends the hold, asks the valves of the checked frames that are not failed-flagged, not
confirmed closed and not in a CLOSE stroke to close, in frame order and then list order, and judges isolation (R89, R90, R92): every
valve listed and not failed-flagged confirmed closed at REST, no job and no pending cause; ISOLATED is then raised with the incident and
its depth (R94, R181). What a close request does by the
valve's motion and purpose (R148). -/
def Obligations.ClosingChecksFramesAndJudgesIsolation : Prop :=
  (∀ (e : Env) (i : Nat) (n : Net), n.Canonical →
    let r := n.incident i
    let t := (enterClosing e i n).incident i
    let entered := noteIncident i (n.setIncident i { r with
      state := .closing, holdTimer := none, holdReason := .none, frames := r.frames.map fun f => { f with checked := true } })
    t.frames = r.frames.map (fun f => { f with checked := true }) ∧ t.holdTimer = none ∧ t.holdReason = .none ∧
    (t.state = .closing ∨ (t.state = .isolated ∧ t.timeIsolated = some e.time)) ∧
    (∀ j, j ≠ i → (enterClosing e i n).incident j = n.incident j) ∧
    enterClosing e i n =
      judgeIsolation e i ((requestsAtClosing n i).foldl (fun n v => closeRequest e v n) entered) ∧
    (∀ v, v ∈ requestsAtClosing n i ↔ ∃ f ∈ r.frames, ∃ b ∈ f.boundary, b.valve = v ∧ b.failed = false ∧
      (n.valve v).confirmedClosed n.params = false ∧ ¬ ((n.valve v).purpose = .close ∧
        ((n.valve v).motion = .waiting ∨ (n.valve v).motion = .issued ∨ (n.valve v).motion = .travel))) ∧
    (requestsAtClosing n i).Sublist ((r.frames.flatMap Frame.boundary).map Boundary.valve)) ∧
  (∀ (e : Env) (i : Nat) (n : Net), n.Canonical →
    let r := n.incident i
    let shut := (∀ f ∈ r.frames, ∀ b ∈ f.boundary, b.failed = true ∨
      ((n.valve b.valve).confirmedClosed n.params = true ∧ (n.valve b.valve).motion = .rest)) ∧
      r.marker = .none ∧ r.pendingCauses = []
    (r.state = .closing → shut →
      (judgeIsolation e i n).incident i = { r with state := .isolated, timeIsolated := some e.time } ∧
      judgeIsolation e i n = noteIncident i (raise e .isolated i r.depth
        (n.setIncident i { r with state := .isolated, timeIsolated := some e.time }))) ∧
    (r.state ≠ .closing ∨ ¬ shut → judgeIsolation e i n = n)) ∧
  ∀ (e : Env) (v : Nat) (n : Net),
    let x := n.valve v
    (x.motion = .rest ∨ x.motion = .fault → closeRequest e v n = joinQueue e v .close n) ∧
    (x.motion ≠ .rest → x.motion ≠ .fault → x.purpose = .close → closeRequest e v n = n) ∧
    (x.motion = .waiting → x.purpose ≠ .close →
      closeRequest e v n = joinQueue e v .close (abortTest e v x .closeRequest n)) ∧
    (x.motion = .issued ∨ x.motion = .travel → x.purpose ≠ .close →
      closeRequest e v n = joinQueue e v .close (abortTest e v x .closeRequest (stopStroke e v n)))

/-- RELEASE is refused for an incident that is FREE or RELEASING, or is carried out, and shows the number of valves asked to open
(R98). It leaves no claim, no holder bit, no frame, no cause, no hold and no job of its incident: a waiting job is removed, a running
one is abandoned and runs on (R98, R107; log 17); the incident is RELEASING, or FREE when no valve was asked to open (R98, R99, R101).
The valves of its frames lose its bit, in frame order and then list order, and then those left with no holder are treated in the same
order: one whose normal state is OPEN and that is not confirmed open has its release owner set and is asked to open, and any other is
handed back; the ADOPTED sensors sited at a node or pipe whose claim is cleared get a notice (R58, R59, R82, R98; the stop of its
CLOSE stroke comes with the loss of the bit: log 22). -/
def Obligations.ReleaseLeavesNoClaim : Prop :=
  (∀ (s : State) (w : ControlWrite) (w0 w1 w2 : Word), s.ControlReady w0 w1 w2 → s.net.live = true →
      let i := w0.toNat
      let r := s.net.incident i
      (i < 8 → r.state ≠ .free → r.state ≠ .releasing → exec (.release w) s = .next (s.afterControl w 6 .accepted
        (releaseCount s.env i s.net) (settle s.env (releaseIncident s.env i s.net)))) ∧
      (s.net.Settled → 8 ≤ i → exec (.release w) s = .next (s.afterControl w 6 .badId 0 (judgeAttn s.net))) ∧
      (s.net.Settled → i < 8 → r.state = .free ∨ r.state = .releasing → exec (.release w) s =
        .next (s.afterControl w 6 .wrongState r.state.code (judgeAttn s.net)))) ∧
  (∀ (e : Env) (owner : Option Nat) (v : Nat) (n : Net),
    let x := n.valve v
    let opens := x.normal = .opened ∧ x.confirmedOpen n.params = false
    (opensOnLoss n v = true ↔ opens) ∧
    (opens → letGo e owner v n = openRequest e v (n.setValve v { x with releaseOwner := owner })) ∧
    (¬ opens → letGo e owner v n = handback e v n)) ∧
  (∀ (p : Owner → Bool) (n : Net), n.Canonical →
    let t := clearOwners p n
    let kept := fun o : Option Owner => match o with
      | some w => if p w then none else some w
      | none => none
    (∀ k, t.node k = { n.node k with owner := kept (n.node k).owner }) ∧
    (∀ k, t.pipe k = { n.pipe k with owner := kept (n.pipe k).owner }) ∧
    ∀ j, let x := n.sensor j
      (j ∈ t.agenda.sensors ↔ j ∈ n.agenda.sensors ∨ (x.tag = .adopted ∧ ∃ o, p o = true ∧
        ((x.kind = .pressure ∧ (n.node x.site).owner = some o) ∨ (x.kind = .flow ∧ (n.pipe x.site).owner = some o))))) ∧
  (∀ (e : Env) (i : Nat) (n : Net), n.Canonical →
    let r := n.incident i
    let t := enterFree e i n
    t.incident i = { r with
      state := .free, frames := [], depth := 0, marker := .none, pendingCauses := [], holdTimer := none, holdReason := .none } ∧
    (∀ j, j ≠ i → t.incident j = n.incident j) ∧ (t.cause 6).flag = true ∧ (t.cause 6).subject = BitVec.ofNat 32 i ∧
    (t.cause 6).detail = BitVec.ofNat 32
      (r.tally.opened % 128 + 256 * (r.tally.faulted % 128) + 65536 * (r.tally.reclaimed % 128))) ∧
  (∀ (e : Env) (i : Nat) (n : Net), n.Canonical →
    let r := n.incident i
    let valves := r.frames.flatMap fun f => f.boundary.map Boundary.valve
    let cleared := clearOwners (fun o => o.incident == i) (Net.setIncident { n with
      jobs := n.jobs.filter fun j => decide (j.incident ≠ some i)
      walker := n.walker.map fun w => if w.job.incident = some i then { w with abandoned := true } else w } i
      { r with holdTimer := none, holdReason := .none, marker := .none, pendingCauses := [] })
    let lost := valves.foldl (fun n v => loseHolder e i v n) cleared
    let unheld := valves.filter fun v => decide ((lost.valve v).holders = [])
    let asked := unheld.filter fun v => opensOnLoss lost v
    let gone := unheld.foldl (fun n v => letGo e (some i) v n) lost
    let released := noteIncident i (gone.setIncident i { gone.incident i with
      reopen := asked.length, tally := ⟨0, 0, 0⟩, frames := [], depth := 0, state := .releasing })
    releaseCount e i n = asked.length ∧
    (asked = [] → releaseIncident e i n = enterFree e i released) ∧ (asked ≠ [] → releaseIncident e i n = released)) ∧
  ∀ (e : Env) (i : Nat) (n : Net), n.Canonical →
    let t := releaseIncident e i n
    let r := t.incident i
    (∀ k o, (t.node k).owner = some o → o.incident ≠ i) ∧ (∀ k o, (t.pipe k).owner = some o → o.incident ≠ i) ∧
    (∀ b ∈ (n.incident i).boundary, i ∉ (t.valve b.valve).holders) ∧
    t.jobs = n.jobs.filter (fun j => decide (j.incident ≠ some i)) ∧
    (∀ w, n.walker = some w → w.job.incident = some i → t.walker = some { w with abandoned := true }) ∧
    ((∀ w, n.walker = some w → w.job.incident ≠ some i) → t.walker = n.walker) ∧
    r.frames = [] ∧ r.depth = 0 ∧ r.pendingCauses = [] ∧ r.marker = .none ∧ r.holdTimer = none ∧ r.holdReason = .none ∧
    r.reopen = releaseCount e i n ∧ r.state = if releaseCount e i n = 0 then .free else .releasing

/-- RETRACT is refused for the first reason that applies, or is carried out: the depth goes down by one, the claims of the level and
the frame are gone, the incident stays ISOLATED, and RETRACTED is raised (R137, R138, R198). CAUSE_OPEN names the first valve of the
frame's cause list that is not confirmed closed at REST (R137). The valves of the frame lose the incident's bit in list order, those left with no holder are asked to open or handed back in the same order with no release owner, and
the failed flags of the frame's cause valves are cleared in the lower frames (R138; the stop of a CLOSE stroke: log 22). -/
def Obligations.RetractRequest : Prop :=
  (∀ (s : State) (w : ControlWrite) (w0 w1 w2 : Word), s.ControlReady w0 w1 w2 → s.net.live = true →
    let i := w0.toNat
    let r := s.net.incident i
    (s.net.Settled → 8 ≤ i → exec (.retract w) s = .next (s.afterControl w 7 .badId 0 (judgeAttn s.net))) ∧
    (s.net.Settled → i < 8 → r.state ≠ .isolated → exec (.retract w) s =
      .next (s.afterControl w 7 .wrongState r.state.code (judgeAttn s.net))) ∧
    (s.net.Settled → i < 8 → r.state = .isolated → r.depth = 0 → exec (.retract w) s =
      .next (s.afterControl w 7 .nothingToRetract 0 (judgeAttn s.net))) ∧
    (∀ f v, s.net.Settled → i < 8 → r.state = .isolated → 0 < r.depth → r.frames[r.depth]? = some f →
      openCause s.net f = some v → exec (.retract w) s = .next (s.afterControl w 7 .causeOpen v (judgeAttn s.net))) ∧
    ∀ f, i < 8 → r.state = .isolated → 0 < r.depth → r.frames[r.depth]? = some f → openCause s.net f = none →
      exec (.retract w) s = .next (s.afterControl w 7 .accepted (retractCount s.env i f s.net)
        (settle s.env (retractFrame s.env i f s.net)))) ∧
  (∀ (n : Net) (f : Frame),
    let closed := fun v => (n.valve v).confirmedClosed n.params = true ∧ (n.valve v).motion = .rest
    (openCause n f = none ↔ ∀ v ∈ f.causes, closed v) ∧
    ∀ v, openCause n f = some v ↔ ∃ k, f.causes[k]? = some v ∧ ¬ closed v ∧ ∀ u ∈ f.causes.take k, closed u) ∧
  ∀ (e : Env) (i : Nat) (f : Frame) (n : Net), n.Canonical →
    let r := n.incident i
    let t := retractFrame e i f n
    let valves := f.boundary.map Boundary.valve
    let lost := valves.foldl (fun n v => loseHolder e i v n) n
    let unheld := valves.filter fun v => decide ((lost.valve v).holders = [])
    let gone := unheld.foldl (fun n v => letGo e none v n) lost
    let cleared := clearOwners (fun o => o.incident == i && o.level == r.depth) gone
    retractCount e i f n = (unheld.filter fun v => opensOnLoss lost v).length ∧
    (t.incident i = { r with
      depth := r.depth - 1
      frames := (r.frames.take r.depth).map fun g => { g with
        boundary := g.boundary.map fun b => if b.valve ∈ f.causes then { b with failed := false } else b } }) ∧
    (∀ j, j ≠ i → t.incident j = n.incident j) ∧ (∀ v, t.valve v = gone.valve v) ∧ (∀ k, t.node k = cleared.node k) ∧
    (∀ k, t.pipe k = cleared.pipe k) ∧ t.queue = gone.queue ∧ t.slots = gone.slots ∧ t.agenda = cleared.agenda ∧
    (t.incident i).depth = r.depth - 1 ∧ (t.incident i).frames.length = min r.depth r.frames.length ∧
    (t.incident i).state = r.state ∧
    (∀ k o, (t.node k).owner = some o → ¬ (o.incident = i ∧ o.level = r.depth)) ∧
    (∀ k o, (t.pipe k).owner = some o → ¬ (o.incident = i ∧ o.level = r.depth)) ∧
    (∀ b ∈ f.boundary, i ∉ (t.valve b.valve).holders) ∧
    (t.cause 15).flag = true ∧ (t.cause 15).subject = BitVec.ofNat 32 i ∧
    (t.cause 15).detail = BitVec.ofNat 32 (r.depth - 1)

/-! ### Valve exercise and service -/

/-- TEST_VALVE is refused for the first reason that applies, or fixes the depth and the home position and joins the TEST class, and
shows its target (R167, R169). -/
def Obligations.TestValveRequest : Prop :=
  ∀ (s : State) (w : ControlWrite) (w0 w1 w2 : Word), s.ControlReady w0 w1 w2 → s.net.live = true →
    let v := w0.toNat
    let depth := w1.toNat
    let x := s.net.valve v
    let p := s.net.params
    let known := v < 2048 ∧ x.tag = .adopted
    let idle := x.holders = [] ∧ x.motion = .rest ∧ x.control = .free
    let refused := fun why detail => exec (.testValve w) s = .next (s.afterControl w 8 why detail (judgeAttn s.net))
    (s.net.Settled → ¬ known → refused .badId 0) ∧
    (s.net.Settled → known → depth < 20 ∨ 300 < depth → refused .badArgument 0) ∧
    (s.net.Settled → known → 20 ≤ depth → depth ≤ 300 → ¬ idle → refused .busyValve x.control.code) ∧
    (s.net.Settled → known → 20 ≤ depth → depth ≤ 300 → idle → x.health = .outOfService → refused .outOfService 0) ∧
    (s.net.Settled → known → 20 ≤ depth → depth ≤ 300 → idle → x.health ≠ .outOfService → x.confirmedOpen p = false →
      refused .notOpen 0) ∧
    ∀ r, known → 20 ≤ depth → depth ≤ 300 → idle → x.health ≠ .outOfService → x.confirmedOpen p = true →
      x.report = some r →
      (s.net.Settled → depth ≤ p.closedTolerance ∨ r.position < depth → refused .badArgument 0) ∧
      (p.closedTolerance < depth → depth ≤ r.position → exec (.testValve w) s = .next (s.afterControl w 8 .accepted
        (r.position - depth) (settle s.env (joinQueue s.env v .testOut (s.net.setValve v { x with
          test := { x.test with depth := depth, home := r.position } })))))

/-- VALVE_SERVICE OUT makes a valve OUT_OF_SERVICE, and IN makes it UNTESTED, without a test standing nothing else changes; a standing
test is aborted by OUT: in WAITING its queue entry is removed and nothing else is changed; in ISSUED and TRAVEL the stroke is stopped and
the valve handed back; then the test ends ABORTED with SERVICE_OUT (R175). The control result shows the health before (R175, R176). A
test stands while a valve is in a stroke whose purpose is a leg of a test (R168). That the refusals come in the order in which R175
names them is the model's choice (log 39). -/
def Obligations.ValveServiceRequests : Prop :=
  (∀ x : Valve, x.underTest = true ↔
    (x.motion = .waiting ∨ x.motion = .issued ∨ x.motion = .travel) ∧ (x.purpose = .testOut ∨ x.purpose = .testBack)) ∧
  (∀ (s : State) (w : ControlWrite) (c : Instr) (w0 w1 w2 : Word), c = .valveServiceOut w ∨ c = .valveServiceIn w →
    s.ControlReady w0 w1 w2 → s.net.live = true →
    let v := w0.toNat
    let x := s.net.valve v
    let known := v < 2048 ∧ x.tag = .adopted
    let after := fun outcome detail n => exec c s = .next (s.afterControl w 9 outcome detail n)
    (s.net.Settled → ¬ known → after .badId 0 (judgeAttn s.net)) ∧
    (s.net.Settled → known → w1 ≠ 1 → w1 ≠ 2 → after .badArgument 0 (judgeAttn s.net)) ∧
    (s.net.Settled → known → w1 = 1 ∨ w1 = 2 → x.holders ≠ [] → after .busyValve x.control.code (judgeAttn s.net)) ∧
    (s.net.Settled → known → w1 = 1 → x.holders = [] → x.underTest = false →
      after .accepted x.health.code (judgeAttn (s.net.setValve v { x with health := .outOfService }))) ∧
    (known → w1 = 1 → x.holders = [] → x.underTest = true →
      after .accepted x.health.code (settle s.env (serviceOut s.env v s.net))) ∧
    (s.net.Settled → known → w1 = 2 → x.holders = [] →
      after .accepted x.health.code (judgeAttn (s.net.setValve v { x with health := .untested })))) ∧
  ∀ (e : Env) (v : Nat) (n : Net), n.Canonical → (n.valve v).underTest = true →
    let x := n.valve v
    let t := serviceOut e v n
    let out := { x with health := .outOfService }
    let aborted := endTest e v .aborted x.purpose .none .serviceOut
    (x.motion = .issued ∨ x.motion = .travel → t = aborted (handback e v (stopStroke e v (n.setValve v out)))) ∧
    (x.motion = .waiting → t = aborted (vacate e v (noteValve v false
      (Net.setValve (n.setValve v out) v { out with motion := .rest, purpose := .none })))) ∧
    (t.valve v).health = .outOfService ∧ (t.valve v).motion = .rest ∧ (t.valve v).purpose = .none ∧
    (t.valve v).test = { x.test with
      result := .aborted, leg := x.purpose, fault := .none, abort := .serviceOut, time := e.time } ∧
    v ∉ t.slots ∧ v ∉ t.queue.all ∧ (x.motion = .waiting → (t.valve v).control = x.control ∧ (t.valve v).image = x.image) ∧
    (t.cause 13).flag = true ∧ (t.cause 13).subject = BitVec.ofNat 32 v

/-! ### Causes and other requests -/

/-- SET_CAUSE replaces a cause's level and vector; ACK_CAUSES clears the named flags and shows those that were set; ATTN is judged in
the same event (R182, R184). -/
def Obligations.CauseRequests : Prop :=
  ∀ (s : State) (w : ControlWrite) (w0 w1 w2 : Word), s.ControlReady w0 w1 w2 → s.net.Settled →
    (w0.toNat ≤ 15 → w1.toNat ≤ 3 → w2.toNat ≤ 255 → exec (.setCause w) s = .next (s.afterControl w 12 .accepted 0
      (judgeAttn (s.net.setCause w0.toNat { s.net.cause w0.toNat with level := w1.toNat, vector := w2.toNat })))) ∧
    (15 < w0.toNat ∨ 3 < w1.toNat ∨ 255 < w2.toNat →
      exec (.setCause w) s = .next (s.afterControl w 12 .badArgument 0 (judgeAttn s.net))) ∧
    (s.Canonical → ∃ t causes detail, exec (.ackCauses w) s = .next t ∧
      t = s.afterControl w 13 .accepted detail (judgeAttn { s.net with causes := causes }) ∧
      (∀ k, k < 16 → t.net.cause k = if w0.getLsbD k then { s.net.cause k with flag := false } else s.net.cause k) ∧
      ∀ k, k < 16 → detail.testBit k = (w0.getLsbD k && (s.net.cause k).flag))

/-- A control record with an unassigned kind is refused as UNKNOWN_KIND, and a request that needs a LIVE image as NOT_LIVE while the
image is not; a refusal leaves every record (R177, R178, R179). -/
def Obligations.UnknownAndNotLiveRequestsAreRefused : Prop :=
  (∀ (s : State) (w7 : Word) (m : Master) (w0 w1 w2 : Word), s.ControlReady w0 w1 w2 → s.net.Settled →
    (Instr.controlUnknownKind w7 m).wellFormed = true →
    exec (.controlUnknownKind w7 m) s = .next (State.clearMarks { s with
      port := .passed (fullWrite s.anch (recordOffset (.control 7)) w7 m)
      net := judgeAttn s.net
      controlResult := ⟨BitVec.ofNat 16 (field w7 16 16), BitVec.ofNat 8 (field w7 0 8), .unknownKind, 0, s.time⟩ }
      (.control 7))) ∧
  ∀ (c : Instr) (w : ControlWrite) (kind : BitVec 8) (s : State) (w0 w1 w2 : Word), requestOf c = some (w, kind) →
    (4 ≤ kind.toNat ∧ kind.toNat ≤ 11) → s.ControlReady w0 w1 w2 → s.net.Settled → s.net.live = false →
    exec c s = .next (s.afterControl w kind .notLive 0 (judgeAttn s.net))

/-- ADOPT_TOPOLOGY and ADOPT_SENSORS queue the validation of their half, which starts at once on an idle walker, or are refused as
ALREADY_ADOPTED or BUSY_IMAGE, in every image state (R15, R104, R105). -/
def Obligations.AdoptionRequestsQueueTheirJobs : Prop :=
  ∀ (s : State) (w : ControlWrite) (w0 w1 w2 : Word), s.ControlReady w0 w1 w2 → s.net.Settled → s.net.Working →
    (s.net.topologyAdopted = true → exec (.adoptTopology w) s =
      .next (s.afterControl w 1 .alreadyAdopted 0 (judgeAttn s.net))) ∧
    (s.net.topologyAdopted = false → s.net.topologyMarker ≠ .none → exec (.adoptTopology w) s =
      .next (s.afterControl w 1 .busyImage 0 (judgeAttn s.net))) ∧
    (s.net.topologyAdopted = false → s.net.topologyMarker = .none → exec (.adoptTopology w) s =
      .next (s.afterControl w 1 .accepted 0 (judgeAttn (if s.net.walker = none then
        { s.net with walker := some ⟨.adoptTopology, false⟩, topologyMarker := .running }
        else { s.net with jobs := s.net.jobs ++ [.adoptTopology], topologyMarker := .queued })))) ∧
    (s.net.sensorsAdopted = true → exec (.adoptSensors w) s =
      .next (s.afterControl w 2 .alreadyAdopted 0 (judgeAttn s.net))) ∧
    (s.net.sensorsAdopted = false → s.net.sensorsMarker ≠ .none → exec (.adoptSensors w) s =
      .next (s.afterControl w 2 .busyImage 0 (judgeAttn s.net))) ∧
    (s.net.sensorsAdopted = false → s.net.sensorsMarker = .none → exec (.adoptSensors w) s =
      .next (s.afterControl w 2 .accepted 0 (judgeAttn (if s.net.walker = none then
        { s.net with walker := some ⟨.adoptSensors, false⟩, sensorsMarker := .running }
        else { s.net with jobs := s.net.jobs ++ [.adoptSensors], sensorsMarker := .queued }))))

/-- REOPEN_IMAGE is refused as BUSY_IMAGE while a job, an incident that is not FREE, or a valve under control or in a stroke stands in
the way, with the lowest one named; taken, it returns every ADOPTED entry to STAGED and takes the image out of LIVE. The id named
for a job is the lowest incident's that has one (log 18), and absent, 0xFFFF, when no job is an incident's (R22, R191, R198). An image
that was LIVE gives the "image closed" notice: the runtime record of every sensor and every cell takes its values, with the fields of the
record, the demand and the meter list kept (R43, R63; what a sensor's last notice showed goes too, log 10). Nothing else changes. -/
def Obligations.ReopenImageRequest : Prop :=
  (∀ (s : State) (w : ControlWrite) (w0 w1 w2 : Word), s.ControlReady w0 w1 w2 → s.net.Settled →
    let idle := s.net.walker = none ∧ s.net.jobs = []
    let works := fun i => (∃ j ∈ s.net.jobs, j.incident = some i) ∨ ∃ r, s.net.walker = some r ∧ r.job.incident = some i
    let free := ∀ i, i < 8 → (s.net.incident i).state = .free
    let quiet := fun v => (s.net.valve v).tag ≠ .empty → (s.net.valve v).control = .free ∧
      ((s.net.valve v).motion = .rest ∨ (s.net.valve v).motion = .fault)
    (¬ idle → (∀ i, i < 8 → ¬ works i) →
      exec (.reopenImage w) s = .next (s.afterControl w 3 .busyImage (2 ^ 24 + 0xFFFF) (judgeAttn s.net))) ∧
    (∀ i, i < 8 → works i → (∀ j, j < i → ¬ works j) →
      exec (.reopenImage w) s = .next (s.afterControl w 3 .busyImage (2 ^ 24 + i) (judgeAttn s.net))) ∧
    (∀ i, idle → i < 8 → (s.net.incident i).state ≠ .free → (∀ j, j < i → (s.net.incident j).state = .free) →
      exec (.reopenImage w) s = .next (s.afterControl w 3 .busyImage (2 * 2 ^ 24 + i) (judgeAttn s.net))) ∧
    (∀ v, s.Canonical → idle → free → v < 2048 → ¬ quiet v → (∀ u, u < v → quiet u) →
      exec (.reopenImage w) s = .next (s.afterControl w 3 .busyImage (3 * 2 ^ 24 + v) (judgeAttn s.net))) ∧
    (s.Canonical → idle → free → (∀ v, quiet v) →
      exec (.reopenImage w) s = .next (s.afterControl w 3 .accepted 0 (judgeAttn (reopen s.net))))) ∧
  ∀ n : Net, n.Canonical →
    let t := reopen n
    t = { n with
      nodes := t.nodes, pipes := t.pipes, valves := t.valves, sensors := t.sensors, cells := t.cells
      globals := { n.globals with tag := n.globals.tag.unadopt }, topologyAdopted := false, sensorsAdopted := false, live := false } ∧
    (∀ k, t.node k = { n.node k with tag := (n.node k).tag.unadopt, edges := [] }) ∧
    (∀ k, t.pipe k = { n.pipe k with tag := (n.pipe k).tag.unadopt }) ∧
    (∀ k, t.valve k = { n.valve k with tag := (n.valve k).tag.unadopt }) ∧
    (n.live = false → (∀ k, t.sensor k = { n.sensor k with tag := (n.sensor k).tag.unadopt }) ∧
      ∀ k, t.cell k = { n.cell k with tag := (n.cell k).tag.unadopt }) ∧
    (n.live = true → (∀ k, t.sensor k = { n.sensor k with
        tag := (n.sensor k).tag.unadopt, state := .unconfigured, baseline := 0, seeded := false, remaining := 0, loss := none
        persist := none, lastSequence := none, lastGood := none, lastDeviation := 0, latch := false, good := 0, doubtful := 0, bad := 0
        badDigit := 0, repeats := 0, shown := false }) ∧
      ∀ k, t.cell k = { n.cell k with
        tag := (n.cell k).tag.unadopt, state := .idle, known := false, imbalance := 0, persist := none, score := 0, absorbed := 0
        location := none })

/-! ### The command window and position reports -/

/-- A write of the slot of a valve with a holder, or CONTROLLED with an image that is no test's, is suppressed and counted, and for
word 3 listed and reported; any other write passes into the shadow, and for word 3 ends HANDBACK_PENDING or a test (R34 to R37, R165,
R173). That enable n selects bits 8n to 8n+7 is the model's choice (log 31). -/
def Obligations.CommandWriteIsSuppressedOrPassed : Prop :=
  (∀ (s : State) (valve : BitVec 11) (word : BitVec 2) (data : Word) (be : Enables) (m : Master),
    s.resetAsserted = false → s.net.Settled →
    let v := valve.toNat
    let x := s.net.valve v
    let a : Access := ⟨true, apertureBase s.anch + commandOffset v word.toNat, be, data, m⟩
    let guarded := x.holders ≠ [] ∨ (x.control = .controlled ∧ ∃ i, x.image = some i ∧ i.source ≠ .test)
    let counted := { s with port := .suppressed a, refusalCount := min (s.refusalCount + 1) 65535 }
    let key := 4 * v + word.toNat
    let h := lookup ShadowWord.atReset s.shadow key
    let mirrored := { s with
      port := .passed a
      shadow := store ShadowWord.atReset s.shadow key ⟨mergeBytes be h.word data, h.mirrored || be == 0xF#4⟩ }
    (guarded → word ≠ 3 → exec (.commandWrite valve word data be m) s = .next counted) ∧
    (guarded → word = 3 → exec (.commandWrite valve word data be m) s = .next { counted with
      refusals := (if 8 ≤ s.refusals.length then s.refusals.drop 1 else s.refusals) ++
        [⟨v, data &&& enableMask be, x.holders, x.control, s.time⟩]
      net := judgeAttn (raise s.env .writeRefused v x.control.code s.net) }) ∧
    (¬ guarded → word ≠ 3 → exec (.commandWrite valve word data be m) s = .next mirrored) ∧
    (¬ guarded → word = 3 → x.underTest = false → x.control = .handbackPending →
      exec (.commandWrite valve word data be m) s = .next { mirrored with
        net := judgeAttn (s.net.setValve v { x with control := .free, image := none }) }) ∧
    (¬ guarded → word = 3 → x.underTest = false → x.control ≠ .handbackPending →
      exec (.commandWrite valve word data be m) s = .next { mirrored with net := judgeAttn s.net }) ∧
    (¬ guarded → word = 3 → x.underTest = true → exec (.commandWrite valve word data be m) s = .next { mirrored with
      net := settle mirrored.env (processorWrite mirrored.env v s.net) })) ∧
  (∀ (be : Enables) (old new : Word) (i : Nat), i < 32 →
    (mergeBytes be old new).getLsbD i = if be.getLsbD (i / 8) then new.getLsbD i else old.getLsbD i) ∧
  ∀ (e : Env) (v : Nat) (n : Net), n.Canonical → (n.valve v).underTest = true →
    let t := processorWrite e v n
    (t.valve v).motion = .rest ∧ (t.valve v).purpose = .none ∧ (t.valve v).control = .free ∧ (t.valve v).image = none ∧
    (t.valve v).test.result = .aborted ∧ (t.valve v).test.abort = .processorWrite ∧
    (t.valve v).test.leg = (n.valve v).purpose ∧ v ∉ t.slots ∧ v ∉ t.queue.all

/-- A read of a FREE valve's slot passes; of a valve under control it returns the image word, and by the actuator link of word 3 of an
image that awaits it, it is a pickup, which starts the travel of an issued stroke (R38, R39, R154, R156, R157). The words of an image
show its target, rate, purpose, source and sequence (R193). A
valve under control without an image, which no run reaches, reads 0 (the model's choice, log 26). The start position
is the stored one, or without one the end away from the target (R154); the expected time is the sum, over the coarse and the fine zone, of
the distance in the zone times 100 divided by the zone's rate, a distance below 0 counting as 0 (R156). -/
def Obligations.CommandReadIsPassedAnsweredOrAPickup : Prop :=
  (∀ (x : Valve) (s t : Nat),
    let c := x.crossover
    let time := fun coarse fine : Nat => coarse * 100 / x.coarseRate + fine * 100 / x.fineRate
    (∀ r, x.report = some r → x.startPosition t = r.position) ∧
    (x.report = none → x.startPosition t = if t < 500 then 1000 else 0) ∧
    (x.purpose = .close → x.expectedTime s t = time (s - max t c) (min s c - t)) ∧
    (x.purpose = .openUp ∨ x.purpose = .testBack → x.expectedTime s t = time (t - max s c) (min t c - s)) ∧
    (x.purpose = .testOut → x.expectedTime s t = time 0 (s - t))) ∧
  (∀ m : Image,
    Shows (m.word 0) [(10, m.target % 2 ^ 10)] ∧ Shows (m.word 1) [(10, m.rate % 2 ^ 10)] ∧
    Shows (m.word 2) [(3, m.purpose.code), (5, 0), (2, m.source.code)] ∧ Shows (m.word 3) [(16, m.sequence.toNat)]) ∧
  ∀ (s : State) (valve : BitVec 11) (word : BitVec 2) (be : Enables) (m : Master), s.resetAsserted = false →
    let v := valve.toNat
    let x := s.net.valve v
    let p := s.net.params
    let a : Access := ⟨false, apertureBase s.anch + commandOffset v word.toNat, be, 0, m⟩
    (x.control = .free → exec (.commandRead valve word be m) s = .next { s with port := .passed a }) ∧
    (x.control ≠ .free → x.image = none → exec (.commandRead valve word be m) s = .next { s with port := .answered a 0 }) ∧
    ∀ i, x.control ≠ .free → x.image = some i →
      let answered := { s with port := .answered a (i.word word.toNat) }
      (word ≠ 3 ∨ m ≠ s.linkid ∨ i.awaiting = false → exec (.commandRead valve word be m) s = .next answered) ∧
      (word = 3 → m = s.linkid → i.awaiting = true →
        (x.motion = .issued → exec (.commandRead valve word be m) s = .next { answered with
          net := settle s.env (noteValve v false (s.net.setValve v { x with
            image := some { i with awaiting := false }, pickup := none, motion := .travel
            reference := x.startPosition i.target, best := x.startPosition i.target
            progress := some (s.time + BitVec.ofNat 32 p.progressWindow)
            deadline := some (s.time + BitVec.ofNat 32 (max (x.expectedTime (x.startPosition i.target) i.target *
              p.deadlineMargin / 100) 1)) })) }) ∧
        (s.net.Settled → x.motion ≠ .issued → exec (.commandRead valve word be m) s = .next { answered with
          net := judgeAttn (s.net.setValve v { x with
            image := some { i with awaiting := false }, pickup := none }) }))

/-- A position report is refused for its id, its fields or an EMPTY valve, counted as a repeat, or stored with its time and judged by
the valve's motion (R141, R142, R145, R166). -/
def Obligations.PositionReportIsRefusedRepeatedOrStored : Prop :=
  ∀ (s : State) (slot : BitVec 11) (w0 w1 : Word) (m : Master), s.PositionReady slot w0 →
    let v := slot.toNat
    let x := s.net.valve v
    let id := field w1 0 11
    let position := field w0 0 11
    let bad := 1000 < position ∨ (flagBit w0 16 = true ∧ flagBit w0 17 = true)
    let r : Report := ⟨position, flagBit w0 16, flagBit w0 17, flagBit w0 18, BitVec.ofNat 16 (field w1 16 16), s.time⟩
    let repeated := ∃ q, x.report = some q ∧ q.sequence = r.sequence
    let after := fun n => exec (.positionReport slot w1 m) s = .next (s.afterRecord (.position slot 1) w1 m n)
    let refused := fun why => after (judgeAttn (recordError s.env .position why { slot := some v, id := some id } s.net))
    (s.net.Settled → id ≠ v → refused .slotMismatch) ∧
    (s.net.Settled → id = v → bad → refused .fieldRange) ∧
    (s.net.Settled → id = v → ¬ bad → x.tag = .empty → refused .noEntry) ∧
    (s.net.Settled → id = v → ¬ bad → x.tag ≠ .empty → repeated →
      after (judgeAttn (s.net.setValve v { x with repeats := min (x.repeats + 1) 65535 }))) ∧
    (id = v → ¬ bad → x.tag ≠ .empty → ¬ repeated →
      after (settle s.env (judgeReport s.env v r (noteValve v false (s.net.setValve v { x with report := some r })))))

/-- The coarse rate is 10000 divided by the full stroke time, the fine rate the coarse rate divided by the fine divisor, each 1 when
the quotient is 0 (R152). -/
def Obligations.CoarseAndFineRates : Prop :=
  ∀ x : Valve,
    x.coarseRate = (if 10000 / x.strokeTime = 0 then 1 else 10000 / x.strokeTime) ∧
    x.fineRate = (if x.coarseRate / x.divisor = 0 then 1 else x.coarseRate / x.divisor) ∧
    (x.strokeTime = 10 → x.coarseRate = 1000) ∧ (x.strokeTime = 3600 → x.coarseRate = 2) ∧
    (x.strokeTime = 3600 → 2 ≤ x.divisor → x.fineRate = 1) ∧
    (x.divisor = 4 → (x.strokeTime = 60 → x.coarseRate = 166 ∧ x.fineRate = 41) ∧
      (x.strokeTime = 45 → x.coarseRate = 222 ∧ x.fineRate = 55) ∧ (x.strokeTime = 120 → x.coarseRate = 83 ∧ x.fineRate = 20) ∧
      (x.strokeTime = 90 → x.coarseRate = 111 ∧ x.fineRate = 27))

/-- The pickup, progress and deadline timers fault the stroke with NO_PICKUP, STALLED and OVERTIME; a fault leaves the valve in FAULT
with its reason, seized but for NO_PICKUP, its timers stopped, out of the queue and the slots; a timer that is not due does nothing
(R155 to R157, R160; log 3, 4). -/
def Obligations.StrokeTimersFaultTheStroke : Prop :=
  (∀ x : Valve, x.inStroke = true ↔ x.motion = .waiting ∨ x.motion = .issued ∨ x.motion = .travel) ∧
  (∀ (s : State) (valve : BitVec 11), s.resetAsserted = false →
    let v := valve.toNat
    let x := s.net.valve v
    let faulted := fun why => Host.Outcome.next { s with net := settle s.env (faultStroke s.env v why s.net) }
    let unchanged := Host.Outcome.next { s with net := judgeAttn s.net }
    (x.inStroke = true → timerDue x.pickup s.time = true → exec (.pickupTimerExpiry valve) s = faulted .noPickup) ∧
    (x.inStroke = true → timerDue x.progress s.time = true → exec (.progressTimerExpiry valve) s = faulted .stalled) ∧
    (x.inStroke = true → timerDue x.deadline s.time = true → exec (.deadlineExpiry valve) s = faulted .overtime) ∧
    (s.net.Settled →
      (x.inStroke = false ∨ timerDue x.pickup s.time = false → exec (.pickupTimerExpiry valve) s = unchanged) ∧
      (x.inStroke = false ∨ timerDue x.progress s.time = false → exec (.progressTimerExpiry valve) s = unchanged) ∧
      (x.inStroke = false ∨ timerDue x.deadline s.time = false → exec (.deadlineExpiry valve) s = unchanged))) ∧
  ∀ (e : Env) (v : Nat) (why : FaultReason) (n : Net), n.Canonical →
    let x := n.valve v
    let t := faultStroke e v why n
    (t.valve v).motion = .fault ∧ (t.valve v).purpose = x.purpose ∧ (t.valve v).fault = why ∧
    (t.valve v).health = (if why = .noPickup then x.health else .seized) ∧
    (t.valve v).pickup = none ∧ (t.valve v).progress = none ∧ (t.valve v).deadline = none ∧
    v ∉ t.slots ∧ v ∉ t.queue.all ∧
    (t.cause 7).flag = true ∧ (t.cause 7).subject = BitVec.ofNat 32 v ∧ (t.cause 7).detail = BitVec.ofNat 32 why.code

/-- The arbiter keeps at most twelve slots and at most three large valves in them, and stops only when no slot is free or no entry is
eligible; an entry is eligible unless its valve is large and three large valves hold slots; while a slot is free it grants the first
eligible entry of the queue, whose CLOSE entries stand before its OPEN entries and those before its TEST entries, and the ineligible
entries before the one it grants are the number passed over; a consultation that grants nothing leaves that number (R147, R150). A grant
takes the valve out of the queue and into a slot and gives a valve notice (R145, R151). A valve joins the tail of the class of its purpose
and is offered to the arbiter; an open request is taken at REST and in FAULT alone (R147, R149, R162). A grant makes a new image for the
purpose, at the rate of the phase that the stored position gives, awaiting pickup, and starts the pickup timer (R151, R153, R170); that
the phase of a TEST_OUT leg, whose rate is always the fine one, is FINE is the model's reading (log 21). -/
def Obligations.ArbiterKeepsTheSlotLimits : Prop :=
  (∀ (e : Env) (n : Net), n.Canonical → n.slots.length ≤ 12 →
      let t := arbitrate e n
      t.slots.length ≤ 12 ∧
      (n.slots.countP (fun v => decide (6 ≤ (n.valve v).diameter)) ≤ 3 →
        t.slots.countP (fun v => decide (6 ≤ (t.valve v).diameter)) ≤ 3) ∧
      (t.slots.length = 12 ∨ ∀ v ∈ t.queue.all,
        6 ≤ (t.valve v).diameter ∧ 3 ≤ t.slots.countP (fun u => decide (6 ≤ (t.valve u).diameter)))) ∧
  (∀ (e : Env) (n : Net),
    let q := n.queue.close ++ n.queue.openUp ++ n.queue.test
    let barred := fun v => 6 ≤ (n.valve v).diameter ∧ 3 ≤ n.slots.countP (fun u => decide (6 ≤ (n.valve u).diameter))
    arbitrate e n = grantUpTo e 12 n ∧ grantUpTo e 0 n = n ∧
    ∀ k,
      (12 ≤ n.slots.length ∨ (∀ v ∈ q, barred v) → grantUpTo e (k + 1) n = n) ∧
      ∀ passed v, n.slots.length < 12 → q[passed]? = some v → ¬ barred v → (∀ u ∈ q.take passed, barred u) →
        grantUpTo e (k + 1) n = grantUpTo e k (grant e v { n with passedOver := passed })) ∧
  (∀ (e : Env) (v : Nat) (n : Net),
    let left := fun l : List Nat => l.filter fun u => decide (u ≠ v)
    grant e v n = noteValve v false (Net.setValve { n with
      queue := ⟨left n.queue.close, left n.queue.openUp, left n.queue.test⟩, slots := n.slots ++ [v] } v
      ((n.valve v).granted n.params e.time)) ∧
    n.queue.without v = ⟨left n.queue.close, left n.queue.openUp, left n.queue.test⟩ ∧
    n.queue.all = n.queue.close ++ n.queue.openUp ++ n.queue.test) ∧
  (∀ (e : Env) (v : Nat) (n : Net),
    let x := n.valve v
    let q := n.queue.without v
    let joined := fun (p : Purpose) (q : StrokeQueue) => arbitrate e (noteValve v false (Net.setValve { n with queue := q } v
      { x with motion := .waiting, purpose := p, seated := false }))
    joinQueue e v .close n = joined .close { q with close := q.close ++ [v] } ∧
    joinQueue e v .openUp n = joined .openUp { q with openUp := q.openUp ++ [v] } ∧
    joinQueue e v .testOut n = joined .testOut { q with test := q.test ++ [v] } ∧
    (x.motion = .rest ∨ x.motion = .fault → openRequest e v n = joinQueue e v .openUp n) ∧
    (x.motion ≠ .rest → x.motion ≠ .fault → openRequest e v n = n)) ∧
  ∀ (x : Valve) (p : Params) (now : Time),
    let issued := fun (ph : Phase) (target : Nat) (source : Source) => { x with
      phase := ph, imageSeq := x.imageSeq + 1
      image := some ⟨target, if ph = .fine then x.fineRate else x.coarseRate, x.purpose, x.imageSeq + 1, source, true⟩
      motion := .issued, control := .controlled, pickup := some (now + BitVec.ofNat 32 p.pickupTimeout), progress := none
      deadline := none, seated := false }
    let near := ∀ r, x.report = some r → r.position ≤ x.crossover
    let far := ∃ r, x.report = some r ∧ x.crossover < r.position
    (x.purpose = .close → x.granted p now =
      issued (match x.report with
        | some r => if r.position ≤ x.crossover then .fine else .coarse
        | none => .coarse) 0 .close) ∧
    (x.purpose = .openUp → (near → x.granted p now = issued .fine 1000 .openUp) ∧
      (far → x.granted p now = issued .coarse 1000 .openUp)) ∧
    (x.purpose = .testOut → x.granted p now = issued .fine (x.test.home - x.test.depth) .test)

/-- A valve at rest or in FAULT is handed back as FREE when the mirrored shadow word 0 holds a target that matches the confirmed end it
rests at, and else waits for the processor under a HOLD image, HANDBACK raised (R115, R142, R164). That the image is a new one also
when the valve already presents a HOLD image is the model's reading (log 34). -/
def Obligations.HandbackComparesWithMemory : Prop :=
  (∀ (e : Env) (v : Nat) (n : Net), (n.valve v).inStroke = false →
    let x := n.valve v
    let p := n.params
    let h := lookup ShadowWord.atReset e.shadow (4 * v)
    let target := field h.word 0 10
    let agrees := h.mirrored = true ∧ target ≤ 1000 ∧
      ((1000 - p.openTolerance ≤ target ∧ x.confirmedOpen p = true) ∨
        (target ≤ p.closedTolerance ∧ x.confirmedClosed p = true))
    let hold := match x.report with
      | some r => r.position
      | none => if x.normal = .opened then 1000 else 0
    (agrees → handback e v n = n.setValve v { x with control := .free, image := none }) ∧
    (¬ agrees → handback e v n = raise e .handback v x.motion.code (n.setValve v { x with
      control := .handbackPending, imageSeq := x.imageSeq + 1
      image := some ⟨hold, 0, .none, x.imageSeq + 1, .hold, false⟩ }))) ∧
  ∀ (x : Valve) (p : Params),
    (x.report = none → x.confirmedClosed p = false ∧ x.confirmedOpen p = false) ∧
    ∀ r, x.report = some r →
      (x.confirmedClosed p = true ↔ r.limitClosed = true ∨ (r.limitOpen = false ∧ r.position ≤ p.closedTolerance)) ∧
      (x.confirmedOpen p = true ↔ r.limitOpen = true ∨ (r.limitClosed = false ∧ 1000 - p.openTolerance ≤ r.position))

/-- A stored report is judged by the motion of its valve (R166). At REST a FREE valve is judged for nothing further (log 16), a seated
held valve under control for breach, any other for being confirmed closed (R162); in WAITING for completion alone; in ISSUED for
completion and a phase change; in TRAVEL for completion, torque, reversal, an advance and a phase change, in this order (R157 to
R159); in FAULT for a late closure while it is held, and for either end while it is not (R135, R163). What the end of a stroke is for
its purpose (R159, R169, R171), and what reversal and an advance are (R157, R158). That a breach leaves the purpose NONE is the
model's choice (log 37), and so is that a closing stroke counts a lower position as nearer its target also below the target, where a
TEST_OUT leg can start (log 41). -/
def Obligations.StoredReportIsJudgedByTheMotion : Prop :=
  (∀ (e : Env) (v : Nat) (r : Report) (n : Net),
    let x := n.valve v
    let p := n.params
    let closed := x.confirmedClosed p = true
    let breach := x.control = .controlled ∧ x.holders ≠ [] ∧ x.seated = true ∧ ¬ closed ∧
      p.closedTolerance + p.breachMargin < r.position
    let ended := x.endReached p r.position = true
    let t := judgeReport e v r n
    (x.motion = .rest →
      (x.control = .free → t = n) ∧
      (breach → t = noteValve v true (raise e .valveFault v 6 (n.setValve v { x with
        motion := .fault, fault := .breach, health := .seized, seated := false }))) ∧
      (x.control ≠ .free → closed → t = n.setValve v { x with seated := true }) ∧
      (¬ breach → ¬ closed → t = n)) ∧
    (x.motion = .waiting ∨ x.motion = .issued ∨ x.motion = .travel → ended → t = completeStroke e v n) ∧
    (x.motion = .waiting → ¬ ended → t = n) ∧
    (x.motion = .issued → ¬ ended → t = changePhase e v r.position n) ∧
    (x.motion = .travel → ¬ ended →
      (r.torque = true → t = faultStroke e v .torque n) ∧
      (r.torque = false → x.reversed p r.position = true → t = faultStroke e v .reverse n) ∧
      (r.torque = false → x.reversed p r.position = false →
        t = changePhase e v r.position (n.setValve v (x.advanced p e.time r.position)))) ∧
    (x.motion = .fault → x.holders = [] →
      (closed ∨ x.confirmedOpen p = true → t = n.setValve v { x with motion := .rest, purpose := .none }) ∧
      (¬ closed → x.confirmedOpen p = false → t = n)) ∧
    (x.motion = .fault → x.holders ≠ [] →
      (closed → t = raise e .lateClose v x.fault.code (n.setValve v { x with
        motion := .rest, purpose := .none, seated := true })) ∧
      (¬ closed → t = n))) ∧
  ∀ (x : Valve) (p : Params) (now : Time) (position : Nat),
    let closing := x.purpose = .close ∨ x.purpose = .testOut
    let restarted := some (now + BitVec.ofNat 32 p.progressWindow)
    (x.purpose = .close → (x.endReached p position = true ↔ x.confirmedClosed p = true)) ∧
    (x.purpose = .openUp → (x.endReached p position = true ↔ x.confirmedOpen p = true)) ∧
    (x.purpose = .testOut → (x.endReached p position = true ↔
      x.motion ≠ .waiting ∧ position ≤ x.test.home - x.test.depth + p.closedTolerance)) ∧
    (x.purpose = .testBack → (x.endReached p position = true ↔
      x.test.home - p.closedTolerance ≤ position ∨ x.confirmedOpen p = true)) ∧
    (closing →
      (x.reversed p position = true ↔ x.best + p.reverseTolerance < position) ∧
      (position + p.progressStep ≤ x.reference → x.advanced p now position =
        { x with best := min x.best position, reference := position, progress := restarted }) ∧
      (x.reference < position + p.progressStep → x.advanced p now position = { x with best := min x.best position })) ∧
    (¬ closing →
      (x.reversed p position = true ↔ position + p.reverseTolerance < x.best) ∧
      (x.reference + p.progressStep ≤ position → x.advanced p now position =
        { x with best := max x.best position, reference := position, progress := restarted }) ∧
      (position < x.reference + p.progressStep → x.advanced p now position = { x with best := max x.best position }))

/-- A completed stroke leaves its valve at REST with its timers stopped and its place in the queue or its slot given up: a CLOSE
stroke seated, under a new CLOSE image when it completes in WAITING; an OPEN stroke reported to its release owner and handed back; a
TEST_OUT leg goes on as TEST_BACK in its slot; a TEST_BACK leg ends the test GOOD and is handed back (R159, R162, R171, R172). A
report that crosses the crossover point toward the target changes the phase, under a new image with the pickup timer restarted, but
for a TEST_OUT leg (R153). After a fault a CLOSE stroke stays, an OPEN stroke is reported and handed back, and a test ends as LINK for
NO_PICKUP, else as SEIZED, and is handed back (R160, R172). The end of a test is written in its record and raises TEST_DONE with its
ending (R168, R196). A stopped stroke leaves its valve at REST with no purpose, its timers stopped, under a new HOLD image, out of the
queue and the slots; a valve that loses a holder keeps the others, and in a CLOSE stroke that loses the last one is stopped (R83,
R115, R161). The release owner of a valve that ends its OPEN stroke or is reclaimed has its reopen count reduced by one and the part of
its tally raised by one, and is FREE when a releasing incident's count reaches 0 (R83, R99, R145). An abort ends a standing test as
ABORTED with its cause (R172 to R175). That a CLOSE stroke completed in WAITING has phase FINE is the model's reading (log 21). -/
def Obligations.StrokesCompleteChangePhaseAndFault : Prop :=
  (∀ (e : Env) (v : Nat) (n : Net),
    let x := n.valve v
    let rested : Valve := { x with
      motion := .rest, purpose := .none, pickup := none, progress := none, deadline := none
      image := x.image.map fun m => { m with awaiting := false } }
    let left := fun y : Valve => vacate e v (noteValve v false (n.setValve v y))
    let back := fun ph : Phase => noteValve v false (n.setValve v { x with
      phase := ph, imageSeq := x.imageSeq + 1
      image := some ⟨x.test.home, if ph = .fine then x.fineRate else x.coarseRate, .testBack, x.imageSeq + 1, .test, true⟩
      purpose := .testBack, motion := .issued, progress := none, deadline := none
      pickup := some (e.time + BitVec.ofNat 32 n.params.pickupTimeout) })
    (x.purpose = .close → x.motion ≠ .waiting → completeStroke e v n = left { rested with seated := true }) ∧
    (x.purpose = .close → x.motion = .waiting → completeStroke e v n = left { rested with
      seated := true, phase := .fine, imageSeq := x.imageSeq + 1
      image := some ⟨0, x.fineRate, .close, x.imageSeq + 1, .close, false⟩ }) ∧
    (x.purpose = .openUp → completeStroke e v n = handback e v (endReleaseOwner e v .opened (left rested))) ∧
    (x.purpose = .testOut →
      ((∀ r, x.report = some r → r.position ≤ x.crossover) → completeStroke e v n = back .fine) ∧
      ((∃ r, x.report = some r ∧ x.crossover < r.position) → completeStroke e v n = back .coarse)) ∧
    (x.purpose = .testBack → completeStroke e v n =
      handback e v (endTest e v .good .testBack .none .none (left { rested with health := .good })))) ∧
  (∀ (e : Env) (v position : Nat) (n : Net) (m : Image),
    let x := n.valve v
    let turned := fun (ph : Phase) (rate : Nat) => n.setValve v { x with
      phase := ph, imageSeq := x.imageSeq + 1, image := some ⟨m.target, rate, m.purpose, x.imageSeq + 1, m.source, true⟩
      pickup := some (e.time + BitVec.ofNat 32 n.params.pickupTimeout) }
    let t := changePhase e v position n
    let down := position ≤ x.crossover ∧ m.target < x.crossover
    let up := x.crossover < position ∧ x.crossover < m.target
    (x.purpose = .testOut → t = n) ∧
    (x.purpose = .close ∨ x.purpose = .openUp ∨ x.purpose = .testBack → x.image = some m →
      (x.phase = .coarse → down → t = turned .fine x.fineRate) ∧ (x.phase = .coarse → ¬ down → t = n) ∧
      (x.phase = .fine → up → t = turned .coarse x.coarseRate) ∧ (x.phase = .fine → ¬ up → t = n))) ∧
  (∀ (e : Env) (v : Nat) (why : FaultReason) (n : Net),
    let x := n.valve v
    let faulted := vacate e v (noteValve v true (raise e .valveFault v why.code (n.setValve v { x with
      motion := .fault, fault := why, health := if why = .noPickup then x.health else .seized
      pickup := none, progress := none, deadline := none, image := x.image.map fun m => { m with awaiting := false } })))
    (x.purpose = .close → faultStroke e v why n = faulted) ∧
    (x.purpose = .openUp → faultStroke e v why n = handback e v (endReleaseOwner e v .faulted faulted)) ∧
    (x.purpose = .testOut ∨ x.purpose = .testBack → faultStroke e v why n =
      handback e v (endTest e v (if why = .noPickup then .link else .seized) x.purpose why .none faulted))) ∧
  (∀ (e : Env) (v : Nat) (n : Net),
    let x := n.valve v
    let target := match x.report with
      | some r => r.position
      | none => if x.normal = .opened then 1000 else 0
    stopStroke e v n = vacate e v (noteValve v false (n.setValve v { x with
      motion := .rest, purpose := .none, pickup := none, progress := none, deadline := none, imageSeq := x.imageSeq + 1
      image := some ⟨target, 0, .none, x.imageSeq + 1, .hold, false⟩ }))) ∧
  (∀ (e : Env) (i v : Nat) (n : Net), n.Canonical →
    let x := n.valve v
    let left := x.holders.filter fun k => decide (k ≠ i)
    let lost := n.setValve v { x with holders := left }
    let stops := left = [] ∧ x.inStroke = true ∧ x.purpose = .close
    (stops → loseHolder e i v n = stopStroke e v lost) ∧ (¬ stops → loseHolder e i v n = lost)) ∧
  (∀ (e : Env) (v : Nat) (n : Net),
    let gone := { n with queue := n.queue.without v, slots := n.slots.filter (fun u => decide (u ≠ v)) }
    (v ∈ n.slots → vacate e v n = arbitrate e gone) ∧ (v ∉ n.slots → vacate e v n = gone)) ∧
  ∀ (e : Env) (v : Nat) (result : TestResult) (leg : Purpose) (fault : FaultReason) (abort : AbortCause) (n : Net),
    let x := n.valve v
    let inBack := if leg = .testBack then 1 else 0
    endTest e v result leg fault abort n = raise e .testDone v
      (match result with
        | .none => 0
        | .good => 1
        | .seized => 2 + inBack
        | .link => 4 + inBack
        | .aborted => 6 + inBack)
      (n.setValve v { x with test := { x.test with
        result := result, leg := leg, fault := fault, abort := abort, time := e.time } }) ∧
    (∀ why, (x.underTest = true → abortTest e v x why n = endTest e v .aborted x.purpose .none why n) ∧
      (x.underTest = false → abortTest e v x why n = n)) ∧
    ∀ part : ReleasePart, n.Canonical →
      (x.releaseOwner = none → endReleaseOwner e v part n = n) ∧
      ∀ k, x.releaseOwner = some k →
        let r := n.incident k
        let counted := Net.setIncident (n.setValve v { x with releaseOwner := none }) k { r with
          reopen := r.reopen - 1
          tally := match part with
            | .opened => { r.tally with opened := r.tally.opened + 1 }
            | .faulted => { r.tally with faulted := r.tally.faulted + 1 }
            | .reclaimed => { r.tally with reclaimed := r.tally.reclaimed + 1 } }
        (r.state = .releasing → r.reopen - 1 = 0 → endReleaseOwner e v part n = enterFree e k counted) ∧
        (r.state ≠ .releasing ∨ r.reopen - 1 ≠ 0 → endReleaseOwner e v part n = counted)

/-! ### Jobs -/

/-- The three validations complete from every state in which their job runs (R17, R19, R20). A validation that passes adopts its half:
its STAGED entries and the GLOBAL entry become ADOPTED, the adjacency lists are built, its flag is set and PASSED is reported; one
that fails leaves the whole half STAGED and reports the failure; either leaves the other half and the two other results, and IMAGE is
raised with the job and the outcome (R16, R18, R19, R181). A validation that passes while the other half is adopted queues the
CROSS_CHECK job at the tail, and no other does (R18, R19, R123). A passed cross-check makes the image LIVE and gives the "image live"
notice, by which the runtime records of the ADOPTED sensors and cells take its values, LEARNING and QUIET, the absorbed counts kept; a
failed one returns every ADOPTED entry of both halves to STAGED, the GLOBAL entry included, with the flags clear and the adjacency
lists discarded (R20, R21, R43, R63; what a sensor's last notice showed goes with its record, log 10). After each of the three the
oldest waiting job starts, its marker RUNNING, and with none the walker is idle; a job of a FAILED incident is dropped, and an
incident in CHECKING without a job has its SUPPLY job at the tail (R84, R105); the marker of the half is NONE otherwise (R123). That a
FAILED outcome counts as a completed job is the model's reading (log 25). Topology validation fails at the first of its five checks
that finds one: an end that is no STAGED node, a pipe or valve with both ends at one node, a node of more than 8 edges, no SOURCE or a
33rd, a 129th protected node; pipes come before valves, each in ascending order, end A before end B (R17). An adjacency list holds the
pipes and then the valves of its node, each ascending, with the far nodes (R18). Sensor validation fails at the first meter of a
STAGED cell whose sensor is not STAGED or is no FLOW sensor, then at the first centre beyond 4095 (R19); the cross-check at the first
sensor whose site, then the first cell whose centre, then the first sensor whose cell is not ADOPTED (R20). -/
def Obligations.ValidationsAdoptOrReport : Prop :=
  (∀ s : State, s.resetAsserted = false → s.Canonical → s.net.Settled →
    let n := s.net
    let raised := fun (t : State) (job : Nat) (r : AdoptionResult) => t.net.cause 0 = { n.cause 0 with
      flag := true, count := min ((n.cause 0).count + 1) 65535, time := s.time, subject := BitVec.ofNat 32 job
      detail := BitVec.ofNat 32 r.outcome.code }
    let topologyTags := fun (t : State) (f : Tag → Tag) => t.net.globals = { n.globals with tag := f n.globals.tag } ∧
      (∀ k, t.net.node k = { n.node k with tag := f (n.node k).tag, edges := (t.net.node k).edges }) ∧
      (∀ k, t.net.pipe k = { n.pipe k with tag := f (n.pipe k).tag }) ∧
      ∀ k, t.net.valve k = { n.valve k with tag := f (n.valve k).tag }
    let sensorTags := fun (t : State) (f : Tag → Tag) =>
      (∀ k, t.net.sensor k = { n.sensor k with tag := f (n.sensor k).tag }) ∧
      ∀ k, t.net.cell k = { n.cell k with tag := f (n.cell k).tag }
    let topologyStays := fun t : State => t.net.topologyAdopted = n.topologyAdopted ∧ topologyTags t (fun tag => tag) ∧
      ∀ k, (t.net.node k).edges = (n.node k).edges
    let sensorsStay := fun t : State => t.net.sensorsAdopted = n.sensorsAdopted ∧ sensorTags t fun tag => tag
    let checks := (List.range 8).filterMap fun i =>
      if (n.incident i).state = .checking ∧ (n.incident i).marker = .none then some (Job.supply i (n.incident i).generation) else none
    let dropped := fun j : Job => j.incident.any fun i => decide ((n.incident i).state = .failed)
    let goesOn := fun (t : State) (added : List Job) (topologyMarker sensorsMarker : Marker) =>
      let waiting := (n.jobs ++ added ++ checks).dropWhile dropped
      t.net.jobs = waiting.drop 1 ∧ t.net.walker = waiting.head?.map (fun j => ⟨j, false⟩) ∧
      t.net.topologyMarker = (if waiting.head? = some .adoptTopology then .running else topologyMarker) ∧
      t.net.sensorsMarker = (if waiting.head? = some .adoptSensors then .running else sensorsMarker) ∧
      t.net.jobsCompleted = min (n.jobsCompleted + 1) 65535 ∧ t = { s with net := t.net }
    (runningJob n = some .adoptTopology → ∃ t, exec .topologyValidationCompletion s = .next t ∧
      t.net.topologyResult = resultOf (topologyFailure n) s.time ∧ t.net.sensorsResult = n.sensorsResult ∧
      t.net.crossResult = n.crossResult ∧ raised t 0 t.net.topologyResult ∧ t.net.live = n.live ∧ sensorsStay t ∧
      goesOn t (if topologyFailure n = none ∧ n.sensorsAdopted = true then [.crossCheck] else []) .none n.sensorsMarker ∧
      (topologyFailure n = none → t.net.topologyAdopted = true ∧ topologyTags t Tag.adopt ∧
        ∀ k, (t.net.node k).edges = if (n.node k).tag = .staged then adjacency n k else (n.node k).edges) ∧
      (topologyFailure n ≠ none → topologyStays t)) ∧
    (runningJob n = some .adoptSensors → ∃ t, exec .sensorValidationCompletion s = .next t ∧
      t.net.sensorsResult = resultOf (sensorsFailure n) s.time ∧ t.net.topologyResult = n.topologyResult ∧
      t.net.crossResult = n.crossResult ∧ raised t 1 t.net.sensorsResult ∧ t.net.live = n.live ∧ topologyStays t ∧
      goesOn t (if sensorsFailure n = none ∧ n.topologyAdopted = true then [.crossCheck] else []) n.topologyMarker .none ∧
      (sensorsFailure n = none → t.net.sensorsAdopted = true ∧ sensorTags t Tag.adopt) ∧
      (sensorsFailure n ≠ none → sensorsStay t)) ∧
    (runningJob n = some .crossCheck → ∃ t, exec .crossCheckCompletion s = .next t ∧
      t.net.crossResult = resultOf (crossFailure n) s.time ∧ t.net.topologyResult = n.topologyResult ∧
      t.net.sensorsResult = n.sensorsResult ∧ raised t 2 t.net.crossResult ∧ t.net.dropped = n.dropped ∧
      goesOn t [] n.topologyMarker n.sensorsMarker ∧
      (crossFailure n = none → t.net.live = true ∧ topologyStays t ∧ t.net.sensorsAdopted = n.sensorsAdopted ∧
        (∀ k, t.net.sensor k = if (n.sensor k).tag = .adopted then { n.sensor k with
            state := .learning, baseline := 0, seeded := false, remaining := (n.sensor k).learningCount
            loss := some (s.time + BitVec.ofNat 32 (n.sensor k).lossTimeout), persist := none, lastSequence := none, lastGood := none
            lastDeviation := 0, latch := false, good := 0, doubtful := 0, bad := 0, badDigit := 0, repeats := 0, shown := false }
          else n.sensor k) ∧
        ∀ k, t.net.cell k = if (n.cell k).tag = .adopted then { n.cell k with
            state := .quiet, known := false, imbalance := 0, persist := none, score := 0, location := none }
          else n.cell k) ∧
      (crossFailure n ≠ none → t.net.live = false ∧ t.net.topologyAdopted = false ∧ t.net.sensorsAdopted = false ∧
        topologyTags t Tag.unadopt ∧ sensorTags t Tag.unadopt ∧ ∀ k, (t.net.node k).edges = []))) ∧
  (Tag.adopt .empty = .empty ∧ Tag.adopt .staged = .adopted ∧ Tag.adopt .adopted = .adopted ∧ Tag.unadopt .empty = .empty ∧
    Tag.unadopt .staged = .staged ∧ Tag.unadopt .adopted = .staged) ∧
  (∀ now : Time, resultOf none now = ⟨.passed, .none, .none, none, none, now⟩ ∧
    ∀ f : Failure, resultOf (some f) now = ⟨.failed, f.reason, f.table, f.id, f.second, now⟩) ∧
  (∀ (n : Net) (pipes valves nodes sources guarded : List Nat), n.Canonical →
    Enumerates pipes (fun k => (n.pipe k).tag = .staged) → Enumerates valves (fun k => (n.valve k).tag = .staged) →
    Enumerates nodes (fun k => (n.node k).tag = .staged) →
    Enumerates sources (fun k => (n.node k).tag = .staged ∧ (n.node k).kind = .source) →
    Enumerates guarded (fun k => (n.node k).tag = .staged ∧ (n.node k).guarded = true) →
    let first := fun check : AdoptionTable → Nat → Nat → Nat → Option Failure =>
      (pipes.findSome? fun k => check .pipe k (n.pipe k).endA (n.pipe k).endB).or
        (valves.findSome? fun k => check .valve k (n.valve k).endA (n.valve k).endB)
    let missing := first fun table k a b =>
      if (n.node a).tag ≠ .staged then some ⟨.endMissing, table, some k, some a⟩
      else if (n.node b).tag ≠ .staged then some ⟨.endMissing, table, some k, some b⟩ else none
    let loop := first fun table k a b => if a = b then some ⟨.selfLoop, table, some k, none⟩ else none
    let degree := (nodes.find? fun k => decide (8 < (adjacency n k).length)).map fun k => ⟨.degree, .node, some k, none⟩
    let source := if sources = [] then some ⟨.noSource, .none, none, none⟩
      else (sources[32]?).map fun k => ⟨.sourceCount, .node, some k, none⟩
    let guard := (guarded[128]?).map fun k => ⟨.protectedCount, .node, some k, none⟩
    topologyFailure n = missing.or (loop.or (degree.or (source.or guard))) ∧
    ∀ k, adjacency n k =
      (pipes.filterMap fun p => if (n.pipe p).endA = k then some ⟨.pipe, p, (n.pipe p).endB⟩
        else if (n.pipe p).endB = k then some ⟨.pipe, p, (n.pipe p).endA⟩ else none) ++
      (valves.filterMap fun v => if (n.valve v).endA = k then some ⟨.valve, v, (n.valve v).endB⟩
        else if (n.valve v).endB = k then some ⟨.valve, v, (n.valve v).endA⟩ else none)) ∧
  (∀ (n : Net) (cells : List Nat), n.Canonical → Enumerates cells (fun k => (n.cell k).tag = .staged) →
    let meters := cells.findSome? fun k => (n.cell k).meters.findSome? fun m =>
      if (n.sensor m.sensor).tag ≠ .staged then some ⟨.meterMissing, .cell, some k, some m.sensor⟩
      else if (n.sensor m.sensor).kind = .pressure then some ⟨.meterNotFlow, .cell, some k, some m.sensor⟩ else none
    let centres := (cells.find? fun k => decide (4095 < (n.cell k).centre)).map fun k => ⟨.centreRange, .cell, some k, none⟩
    sensorsFailure n = meters.or centres) ∧
  ∀ (n : Net) (sensors cells : List Nat), n.Canonical → Enumerates sensors (fun k => (n.sensor k).tag = .adopted) →
    Enumerates cells (fun k => (n.cell k).tag = .adopted) →
    let site := fun k => match (n.sensor k).kind with
      | .pressure => (n.node (n.sensor k).site).tag
      | .flow => (n.pipe (n.sensor k).site).tag
    let sites := (sensors.find? fun k => decide (site k ≠ .adopted)).map fun k =>
      ⟨.siteMissing, .sensor, some k, some (n.sensor k).site⟩
    let centres := (cells.find? fun k => decide ((n.node (n.cell k).centre).tag ≠ .adopted)).map fun k =>
      ⟨.centreMissing, .cell, some k, some (n.cell k).centre⟩
    let named := (sensors.find? fun k => decide ((n.cell (n.sensor k).cell).tag ≠ .adopted)).map fun k =>
      ⟨.cellMissing, .sensor, some k, some (n.sensor k).cell⟩
    crossFailure n = sites.or (centres.or named)

/-- A BOUNDARY job completes with its walk applied to the last survivor, a SUPPLY job with its result applied, discarded as stale or
dropped, and an abandoned job with nothing applied; each takes the next job (R84, R88, R97, R105, R107, R113, R121). A completion of a
job other than the one that runs, whether none runs, another or an abandoned one, changes nothing (log 3). A queued job joins the
tail, and on an idle walker the oldest job starts; the job of an incident that is FAILED is dropped at its start, its marker NONE, and
the next one considered (R104, R105). The marker of a started job is RUNNING, and a BOUNDARY job above level 0 pushes its frame: up to
four of the oldest pending causes are taken, and each of their ends, A before B, that the incident does not own becomes a seed once
(R129, R130). A finished job gives every incident in CHECKING with no job its SUPPLY job, and the walker becomes idle (R84). A supply
result notes the cut nodes and takes the incident to HELD, raised with the incident and the hold reason, or to CLOSING (R88, R181). The
order of the notices of a walk is the model's beyond R117 (log 40). -/
def Obligations.WalksAndSupplyChecksComplete : Prop :=
  (∀ (s : State), s.resetAsserted = false →
    (∀ i level, runningJob s.net = some (.boundary i level) →
      let w := runWalk s.env i level (s.net.setIncident i { s.net.incident i with marker := .none })
      exec .boundaryJobCompletion s = .next { s with net := settle s.env (finishJob s.env (countCompleted
        (orderNotices w.incident w.folded (applyWalk w.incident w.net)))) }) ∧
    (∀ i g, runningJob s.net = some (.supply i g) → s.Canonical →
      let r := s.net.incident i
      let n := s.net.setIncident i { r with marker := .none }
      (g ≠ r.generation → exec .supplyJobCompletion s = .next { s with
        net := settle s.env (finishJob s.env { n with jobsStale := min (n.jobsStale + 1) 65535 }) }) ∧
      (g = r.generation → r.state = .checking → exec .supplyJobCompletion s = .next { s with
        net := settle s.env (finishJob s.env (countCompleted (applySupply s.env i (newlyCut n i) n))) }) ∧
      (g = r.generation → r.state ≠ .checking → exec .supplyJobCompletion s = .next { s with
        net := settle s.env (finishJob s.env n) })) ∧
    (∀ j, s.net.walker = some ⟨j, true⟩ → exec .abandonedJobCompletion s = .next { s with
      net := settle s.env (startJobs s.env { s.net with
        walker := none, jobsAbandoned := min (s.net.jobsAbandoned + 1) 65535 }) }) ∧
    (s.net.Settled →
      let unchanged := Host.Outcome.next { s with net := judgeAttn s.net }
      ((∀ i level, runningJob s.net ≠ some (.boundary i level)) → exec .boundaryJobCompletion s = unchanged) ∧
      ((∀ i g, runningJob s.net ≠ some (.supply i g)) → exec .supplyJobCompletion s = unchanged) ∧
      ((∀ j, s.net.walker ≠ some ⟨j, true⟩) → exec .abandonedJobCompletion s = unchanged) ∧
      (runningJob s.net ≠ some .adoptTopology → exec .topologyValidationCompletion s = unchanged) ∧
      (runningJob s.net ≠ some .adoptSensors → exec .sensorValidationCompletion s = unchanged) ∧
      (runningJob s.net ≠ some .crossCheck → exec .crossCheckCompletion s = unchanged))) ∧
  (∀ (e : Env) (n : Net),
    let idle := n.walker = none
    (¬ idle → startJobs e n = n) ∧ (idle → n.jobs = [] → startJobs e n = n) ∧
    (∀ j js, idle → n.jobs = j :: js →
      let dropped := ∃ i, j.incident = some i ∧ (n.incident i).state = .failed
      let started := setMarker j .running { n with jobs := js, walker := some ⟨j, false⟩ }
      (dropped → startJobs e n = startJobs e (setMarker j .none { n with jobs := js })) ∧
      (¬ dropped → (∀ i level, j = .boundary i (level + 1) → startJobs e n = pushFrame e i (level + 1) started) ∧
        ((∀ i level, j ≠ .boundary i (level + 1)) → startJobs e n = started))) ∧
    (∀ j, queueJob e j n = startJobs e (setMarker j .queued { n with jobs := n.jobs ++ [j] })) ∧
    finishJob e n = startJobs e { (List.range 8).foldl (fun n i =>
      if (n.incident i).state = .checking ∧ (n.incident i).marker = .none then
        queueJob e (.supply i (n.incident i).generation) n else n) n with walker := none }) ∧
  (∀ (m : Marker) (i level : Nat) (g : BitVec 16) (n : Net),
    let marked := n.setIncident i { n.incident i with marker := m }
    (Job.boundary i level).incident = some i ∧ (Job.supply i g).incident = some i ∧ Job.adoptTopology.incident = none ∧
    Job.adoptSensors.incident = none ∧ Job.crossCheck.incident = none ∧
    setMarker (.boundary i level) m n = marked ∧ setMarker (.supply i g) m n = marked ∧
    setMarker .adoptTopology m n = { n with topologyMarker := m } ∧ setMarker .adoptSensors m n = { n with sensorsMarker := m } ∧
    setMarker .crossCheck m n = n) ∧
  (∀ (e : Env) (i level : Nat) (n : Net), n.Canonical →
    let r := n.incident i
    let t := pushFrame e i level n
    let causes := r.pendingCauses.take 4
    let ends := causes.flatMap fun v => [(n.valve v).endA, (n.valve v).endB]
    let mine := fun x => (n.node x).owner.map Owner.incident = some i
    let seeds := ends.foldl (fun seeds x => if mine x ∨ x ∈ seeds then seeds else seeds ++ [x]) []
    t.incident i = { r with
      frames := r.frames ++ [⟨level, causes, seeds, [], 0, 0, false⟩], depth := level, generation := r.generation + 1
      pendingCauses := r.pendingCauses.drop 4 } ∧
    (∀ j, j ≠ i → t.incident j = n.incident j) ∧ (t.cause 4).flag = true ∧ (t.cause 4).subject = BitVec.ofNat 32 i ∧
    (t.cause 4).detail = BitVec.ofNat 32 level ∧ t = { n with incidents := t.incidents, causes := t.causes }) ∧
  (∀ n : Net, (∀ j, runningJob n = some j ↔ n.walker = some ⟨j, false⟩)) ∧
  (∀ (i : Nat) (n : Net), n.Canonical →
    let r := n.incident i
    (r.state = .failed → applyWalk i n = n) ∧
    (r.state ≠ .failed → (applyWalk i n).incident i = { r with
      state := .checking, generation := r.generation + 1, holdTimer := none, holdReason := .none })) ∧
  ∀ (e : Env) (i : Nat) (cut : List Nat) (n : Net), n.Canonical →
    let r := n.incident i
    let t := (applySupply e i cut n).incident i
    let noted := n.setIncident i { r with cutList := cut.take 4, cutCount := cut.length }
    let held := fun (why : HoldReason) (code : Nat) (timer : Option Time) => noteIncident i (raise e .held i code
      (noted.setIncident i { noted.incident i with state := .held, holdReason := why, holdTimer := timer }))
    (cut ≠ [] → applySupply e i cut n = held .supplyCut 1 none) ∧
    (cut = [] → r.policy = .confirm → applySupply e i cut n =
      held .policy 2 (if r.holdExpiry = 0 then none else some (e.time + BitVec.ofNat 32 r.holdExpiry))) ∧
    (cut = [] → r.policy = .auto → applySupply e i cut n = enterClosing e i noted) ∧
    t.cutList = cut.take 4 ∧ t.cutCount = cut.length ∧
    (cut ≠ [] → t.state = .held ∧ t.holdReason = .supplyCut ∧ t.holdTimer = none) ∧
    (cut = [] → r.policy = .confirm → t.state = .held ∧ t.holdReason = .policy ∧
      t.holdTimer = if r.holdExpiry = 0 then none else some (e.time + BitVec.ofNat 32 r.holdExpiry)) ∧
    (cut = [] → r.policy = .auto → t.state = .closing ∨ t.state = .isolated)

/-- A boundary walk takes what it meets as follows. A node: a SOURCE ends it with SOURCE_INSIDE, its own is passed by, another
incident's leads to a merge, or is a wall to a FAILED incident, and an unowned one is claimed and joins the frontier (R109). A seed of
its own is placed without a claim (R108). A pipe follows the judgement of its far node and is claimed first (R110). A usable valve
joins the frame and gains the holder bit, and any other is crossed (R111). A claim beyond 512 nodes or pipes ends the walk with
REGION_LIMIT and a seventeenth boundary valve with BOUNDARY_FULL; an ended walk examines nothing more (R112). The nodes of the
frontier are examined one at a time from its head, edge by edge (R108). What a claim writes, and the notices of the ADOPTED sensors sited
there, which it masks (R58, R59, R80, R82), and what a gained holder does to the valve (R83, R114, R174). -/
def Obligations.WalkTakesNodesPipesAndValves : Prop :=
  (∀ (e : Env) (w : Walk),
    let i := w.incident
    let r := w.net.incident i
    let stop := fun why => { w with net := enterFailed e i why w.net, ended := true }
    let claimed := fun x => { w with net := claimNode i w.level x w.net, frontier := w.frontier ++ [x] }
    let piped := fun p => { w with net := claimPipe i w.level p w.net }
    (∀ x, let y := w.net.node x
      (y.kind = .source → w.arrive e x = stop .sourceInside) ∧
      (∀ o, y.kind = .junction → y.owner = some o → o.incident = i ∨ r.state = .failed → w.arrive e x = w) ∧
      (∀ o, y.kind = .junction → y.owner = some o → o.incident ≠ i → r.state ≠ .failed →
        w.arrive e x = w.merge e o.incident) ∧
      (y.kind = .junction → y.owner = none → 512 ≤ r.ownedNodes → w.arrive e x = stop .regionLimit) ∧
      (y.kind = .junction → y.owner = none → r.ownedNodes < 512 → w.arrive e x = claimed x) ∧
      (w.ended = true → w.seed e x = w) ∧
      (∀ o, w.ended = false → y.kind = .junction → y.owner = some o → o.incident = i →
        w.seed e x = { w with frontier := w.frontier ++ [x] }) ∧
      (w.ended = false → y.kind = .source ∨ (∀ o, y.owner = some o → o.incident ≠ i) → w.seed e x = w.arrive e x)) ∧
    (∀ p far, let q := w.net.pipe p
      let y := w.net.node far
      (∀ o, q.owner = some o → o.incident = i ∨ r.state = .failed → w.takePipe e p far = w) ∧
      (∀ o, q.owner = some o → o.incident ≠ i → r.state ≠ .failed → w.takePipe e p far = w.merge e o.incident) ∧
      (q.owner = none →
        (y.kind = .source → w.takePipe e p far = stop .sourceInside) ∧
        (∀ o, y.kind = .junction → y.owner = some o → o.incident ≠ i → r.state = .failed → w.takePipe e p far = w) ∧
        (y.kind = .junction → (∀ o, y.owner = some o → o.incident = i ∨ r.state ≠ .failed) → 512 ≤ r.ownedPipes →
          w.takePipe e p far = stop .regionLimit) ∧
        (∀ o, y.kind = .junction → y.owner = some o → o.incident = i → r.ownedPipes < 512 →
          w.takePipe e p far = piped p) ∧
        (∀ o, y.kind = .junction → y.owner = some o → o.incident ≠ i → r.state ≠ .failed → r.ownedPipes < 512 →
          w.takePipe e p far = (piped p).merge e o.incident) ∧
        (y.kind = .junction → y.owner = none → 512 ≤ r.ownedNodes → w.takePipe e p far = stop .regionLimit) ∧
        (y.kind = .junction → y.owner = none → r.ownedPipes < 512 → r.ownedNodes < 512 →
          w.takePipe e p far = (piped p).claim far))) ∧
    (∀ v far, let x := w.net.valve v
      let listed := ∃ f ∈ r.frames, ∃ b ∈ f.boundary, b.valve = v
      let usable := x.tag = .adopted ∧ (x.health = .good ∨ x.health = .untested) ∧ (∀ f ∈ r.frames, v ∉ f.causes) ∧
        v ∉ r.pendingCauses
      let full := ∃ f, r.frames[w.level]? = some f ∧ 16 ≤ f.boundary.length
      (listed → w.takeValve e v far = w) ∧
      (¬ listed → usable → full → w.takeValve e v far = stop .boundaryFull) ∧
      (¬ listed → usable → ¬ full → w.takeValve e v far = { w with net := holderGained e v (modValve v
        (fun x => { x with holders := insertAsc i x.holders })
        (modFrame i w.level (fun f => { f with boundary := f.boundary ++ [⟨v, false⟩] }) w.net)) }) ∧
      (¬ listed → ¬ usable → w.takeValve e v far = w.arrive e far)) ∧
    (∀ d : Edge, (w.ended = true → w.takeEdge e d = w) ∧
      (w.ended = false → d.kind = .pipe → w.takeEdge e d = w.takePipe e d.id d.far) ∧
      (w.ended = false → d.kind = .valve → w.takeEdge e d = w.takeValve e d.id d.far)) ∧
    (∀ k, (w.frontier = [] ∨ w.ended = true → w.spread e k = w) ∧
      ∀ x xs, w.ended = false → w.frontier = x :: xs → w.spread e (k + 1) =
        Walk.spread e k ((w.net.node x).edges.foldl (fun w d => w.takeEdge e d) { w with frontier := xs }))) ∧
  (∀ (e : Env) (i level : Nat) (n : Net),
    let seeds := match (n.incident i).frames[level]? with
      | some f => f.seeds
      | none => []
    let w : Walk := seeds.foldl (fun w x => w.seed e x) ⟨n, i, level, [], [], false⟩
    runWalk e i level n = w.spread e (w.frontier.length + (w.net.nodes.map fun kv => kv.2.edges.length).sum)) ∧
  (∀ (i level k : Nat) (n : Net), n.Canonical →
    let t := claimNode i level k n
    let u := claimPipe i level k n
    t.node k = { n.node k with owner := some ⟨i, level⟩ } ∧ (∀ j, j ≠ k → t.node j = n.node j) ∧
    t.incident i = { n.incident i with frames := (n.incident i).frames.modify level fun f =>
      { f with regionNodes := f.regionNodes + 1 } } ∧ (∀ j, j ≠ i → t.incident j = n.incident j) ∧
    u.pipe k = { n.pipe k with owner := some ⟨i, level⟩ } ∧ (∀ j, j ≠ k → u.pipe j = n.pipe j) ∧
    u.incident i = { n.incident i with frames := (n.incident i).frames.modify level fun f =>
      { f with regionPipes := f.regionPipes + 1 } } ∧ (∀ j, j ≠ i → u.incident j = n.incident j) ∧
    ∀ j, let x := n.sensor j
      (j ∈ t.agenda.sensors ↔ j ∈ n.agenda.sensors ∨ (x.tag = .adopted ∧ x.kind = .pressure ∧ x.site = k)) ∧
      (j ∈ u.agenda.sensors ↔ j ∈ n.agenda.sensors ∨ (x.tag = .adopted ∧ x.kind = .flow ∧ x.site = k))) ∧
  (∀ (v : Nat) (l : List Nat), l.Pairwise (· < ·) →
    (insertAsc v l).Pairwise (· < ·) ∧ ∀ u, u ∈ insertAsc v l ↔ u = v ∨ u ∈ l) ∧
  (∀ (e : Env) (i : Nat) (why : FailReason) (n : Net), n.Canonical →
    let r := n.incident i
    let t := enterFailed e i why n
    (r.state = .failed → t = n) ∧
    (r.state ≠ .failed → t.incident i = { r with
      state := .failed, failReason := why, holdTimer := none, holdReason := .none } ∧
      (t.cause 5).flag = true ∧ (t.cause 5).subject = BitVec.ofNat 32 i ∧ (t.cause 5).detail = BitVec.ofNat 32 why.code)) ∧
  ∀ (e : Env) (v : Nat) (n : Net), n.Canonical →
    let x := n.valve v
    let closing := x.inStroke = true ∧ x.purpose = .close
    let taken := { x with control := .controlled }
    (closing → holderGained e v n = endReleaseOwner e v .reclaimed n) ∧
    (x.inStroke = true → x.purpose ≠ .close → holderGained e v n =
      endReleaseOwner e v .reclaimed (abortTest e v x .holderGained (stopStroke e v (n.setValve v taken)))) ∧
    (x.inStroke = false → x.control = .free → holderGained e v n = endReleaseOwner e v .reclaimed (n.setValve v { taken with
      imageSeq := x.imageSeq + 1, image := some ⟨x.holdTarget, 0, .none, x.imageSeq + 1, .hold, false⟩ })) ∧
    (x.inStroke = false → x.control = .handbackPending →
      holderGained e v n = endReleaseOwner e v .reclaimed (n.setValve v taken)) ∧
    (x.inStroke = false → x.control = .controlled → holderGained e v n = endReleaseOwner e v .reclaimed n) ∧
    (x.releaseOwner = none → endReleaseOwner e v .reclaimed n = n) ∧
    ∀ k, x.releaseOwner = some k →
      let r := n.incident k
      let t := endReleaseOwner e v .reclaimed n
      t.valve v = { x with releaseOwner := none } ∧ (t.incident k).reopen = r.reopen - 1 ∧
      (t.incident k).tally = { r.tally with reclaimed := r.tally.reclaimed + 1 } ∧
      (t.incident k).state = if r.state = .releasing ∧ r.reopen - 1 = 0 then .free else r.state

/-- A merge folds the walking incident into the owner of the ground it meets, in one step. Its nodes and pipes go over to the survivor at
its depth and are counted there; its boundary valves join the innermost frame with their flags, and the holder bits pass over; its
pending causes are flagged failed and join the survivor's; its origins join up to four and are counted beyond, with the unlisted ones; the
innermost frame is unchecked and the plan generation goes up (R116). Beyond 512 nodes or pipes, sixteen boundary valves or eight pending
causes the survivor fails, and a valve that finds no place loses its bit (R118; which valves and causes: log 24). The folded incident is
FREE, names the survivor, has no waiting job, and FREED is raised; the walk goes on for the survivor, and ends when the fold has failed it
(R117, R118). The incident notices of the completion: the survivor's first, then those of the folded incidents, ascending (R117); that
it is first without a merge too, and that any other incident's come last, is the model's choice (log 40). -/
def Obligations.FoldMovesAnIncidentIntoTheSurvivor : Prop :=
  (∀ (e : Env) (w : Walk) (j : Nat),
    let n := foldIncident e w.incident j w.net
    w.merge e j = { w with
      net := n, incident := j, level := (n.incident j).depth, folded := w.folded ++ [w.incident]
      ended := decide ((n.incident j).state = .failed ∧ (w.net.incident j).state ≠ .failed) } ∧
    ∀ (i : Nat) (n : Net),
      let r := n.incident i
      foldIncident e i j n = freeMerged e i j (foldPlan i j (r.pendingCauses.foldl (fun n v => foldCause e j v n)
        (r.boundary.foldl (fun n b => foldValve e i j b n) (foldGround e i j n))))) ∧
  (∀ (e : Env) (i j : Nat) (n : Net), n.Canonical → i ≠ j →
    let r := n.incident i
    let d := (n.incident j).depth
    let moved := fun o : Option Owner => match o with
      | some w => if w.incident = i then some ⟨j, d⟩ else some w
      | none => none
    let ground := modFrame j d (fun f => { f with
      regionNodes := f.regionNodes + r.ownedNodes, regionPipes := f.regionPipes + r.ownedPipes }) (reown i j d n)
    let beyond := 512 < (ground.incident j).ownedNodes ∨ 512 < (ground.incident j).ownedPipes
    (∀ k, ground.node k = { n.node k with owner := moved (n.node k).owner }) ∧
    (∀ k, ground.pipe k = { n.pipe k with owner := moved (n.pipe k).owner }) ∧
    (ground.incident j).frames = (n.incident j).frames.modify d (fun f => { f with
      regionNodes := f.regionNodes + r.ownedNodes, regionPipes := f.regionPipes + r.ownedPipes }) ∧
    (¬ beyond → foldGround e i j n = ground) ∧ (beyond → foldGround e i j n = enterFailed e j .regionLimit ground)) ∧
  (∀ (e : Env) (i j : Nat) (b : Boundary) (n : Net),
    let s := n.incident j
    let passed := modValve b.valve fun x => { x with holders := insertAsc j (x.holders.filter fun k => decide (k ≠ i)) }
    let listed := ∃ f ∈ s.frames, ∃ c ∈ f.boundary, c.valve = b.valve
    let full := ∃ f, s.frames[s.depth]? = some f ∧ 16 ≤ f.boundary.length
    let dropped := loseHolder e i b.valve (enterFailed e j .boundaryFull n)
    (listed → foldValve e i j b n = passed n) ∧
    (¬ listed → ¬ full → foldValve e i j b n =
      passed (modFrame j s.depth (fun f => { f with boundary := f.boundary ++ [b] }) n)) ∧
    (¬ listed → full → (dropped.valve b.valve).holders ≠ [] → foldValve e i j b n = dropped) ∧
    (¬ listed → full → (dropped.valve b.valve).holders = [] → foldValve e i j b n = handback e b.valve dropped)) ∧
  (∀ (e : Env) (j v : Nat) (n : Net), n.Canonical →
    let flagged := modIncident j (fun r => { r with frames := r.frames.map fun f => { f with
      boundary := f.boundary.map fun b => if b.valve = v then { b with failed := true } else b } }) n
    let causes := (n.incident j).pendingCauses
    (v ∈ causes → foldCause e j v n = flagged) ∧
    (v ∉ causes → 8 ≤ causes.length → foldCause e j v n = enterFailed e j .causeOverflow flagged) ∧
    (v ∉ causes → causes.length < 8 → foldCause e j v n =
      modIncident j (fun r => { r with pendingCauses := r.pendingCauses ++ [v] }) flagged)) ∧
  (∀ (e : Env) (i j : Nat) (n : Net), n.Canonical → i ≠ j →
    let r := n.incident i
    let s := n.incident j
    let room := 4 - s.origins.length
    let t := foldPlan i j n
    let u := freeMerged e i j n
    t.incident j = { s with
      origins := s.origins ++ r.origins.take room
      unlisted := min (s.unlisted + (r.origins.length - room) + r.unlisted) 65535
      frames := s.frames.modify s.depth (fun f => { f with checked := false }), generation := s.generation + 1 } ∧
    (∀ k, k ≠ j → t.incident k = n.incident k) ∧
    u.incident i = { r with
      state := .free, frames := [], depth := 0, marker := .none, pendingCauses := [], holdTimer := none, holdReason := .none
      mergedInto := some j } ∧
    (∀ k, k ≠ i → u.incident k = n.incident k) ∧ u.jobs = n.jobs.filter (fun q => decide (q.incident ≠ some i)) ∧
    (u.cause 6).flag = true ∧ (u.cause 6).subject = BitVec.ofNat 32 i ∧
    (u.cause 6).detail = BitVec.ofNat 32 (2 ^ 31 + j)) ∧
  ∀ (s : Nat) (folded : List Nat) (n : Net), s ∉ folded →
    let given := n.agenda.incidents
    let t := orderNotices s folded n
    t = { n with agenda := { n.agenda with incidents := t.agenda.incidents } } ∧
    ∃ asc : List Nat, asc.Pairwise (· < ·) ∧ (∀ k, k ∈ asc ↔ k ∈ folded ∧ k ∈ given) ∧
      t.agenda.incidents = (if s ∈ given then [s] else []) ++ asc ++ given.filter fun k => decide (k ≠ s ∧ k ∉ folded)

/-- The supply check floods the network twice from every SOURCE node it may enter, and the newly cut nodes are the protected nodes that
the first pass enters and the second does not, ascending (R120, R121). Pass B takes the owner fields and holder sets as they stand: it
enters unowned nodes, and crosses unowned pipes and the valves that are not confirmed closed, not held and not in a CLOSE stroke. Pass A
takes ground of the incident at the level of an unchecked frame as unowned, and judges a valve that the incident alone holds, through an
unchecked frame, by its state alone (R120). -/
def Obligations.SupplyFloodsFindTheNewlyCutNodes : Prop :=
  (∀ (n : Net) (i : Nat), n.Canonical →
    (∀ p x, x ∈ entered n p ↔ p.Reaches n x) ∧
    (∀ x, x ∈ newlyCut n i ↔ (n.node x).tag = .adopted ∧ (n.node x).guarded = true ∧
      (passA n i).Reaches n x ∧ ¬ (passB n).Reaches n x) ∧
    (newlyCut n i).Pairwise (· < ·)) ∧
  ∀ (n : Net) (i : Nat),
    let r := n.incident i
    let opened := fun v => (n.valve v).confirmedClosed n.params = false ∧
      ¬ ((n.valve v).inStroke = true ∧ (n.valve v).purpose = .close)
    let ground := fun o : Option Owner => o = none ∨ ∃ w f, o = some w ∧ w.incident = i ∧ r.frames[w.level]? = some f ∧
      f.checked = false
    let planned := fun v => (n.valve v).holders = [i] ∧ ∃ b, r.entry v = some (false, b)
    (∀ x, (passB n).node x = true ↔ (n.node x).owner = none) ∧ (∀ p, (passB n).pipe p = true ↔ (n.pipe p).owner = none) ∧
    (∀ v, (passB n).valve v = true ↔ opened v ∧ (n.valve v).holders = []) ∧
    (∀ x, (passA n i).node x = true ↔ ground (n.node x).owner) ∧ (∀ p, (passA n i).pipe p = true ↔ ground (n.pipe p).owner) ∧
    (∀ v, planned v → ((passA n i).valve v = true ↔ opened v)) ∧
    ∀ v, ¬ planned v → (passA n i).valve v = (passB n).valve v

/-! ### Invariants of every step -/

/-- Every step keeps the tables of the part in their canonical form. -/
def Obligations.EveryTableStaysCanonical : Prop :=
  ∀ s t : State, s.Canonical → step s = .next t → t.Canonical

/-- After every step ATTN is asserted exactly while some cause flag of level 1, 2 or 3 is set, and the attention word shows the vector
of the highest level and, within it, of the lowest number (R183). -/
def Obligations.AttnFollowsTheCauses : Prop :=
  ∀ s t : State, s.net.AttnFollows → step s = .next t → t.net.AttnFollows

/-- Between events no notice is pending, no escalation is called for, and the walker is idle only while no job waits (R105, R127).
That the notices of an event are all taken within it, in rounds that are enough, is the model's reading (R58, R81, R145; log 23). -/
def Obligations.NothingIsPendingBetweenEvents : Prop :=
  ∀ s t : State, s.Canonical → s.net.Settled → s.net.Working → step s = .next t → t.net.Settled ∧ t.net.Working

/-- Every step keeps at most twelve valves in stroke slots (R150). -/
def Obligations.AtMostTwelveStrokeSlots : Prop :=
  ∀ s t : State, s.net.slots.length ≤ 12 → step s = .next t → t.net.slots.length ≤ 12

/-- Every step keeps the refusal list at eight entries and the refusal count at 65535, and the list no longer than the count while the
count has not stopped (R37). -/
def Obligations.RefusalListStaysWithinEight : Prop :=
  ∀ s t : State, s.refusals.length ≤ 8 → s.refusalCount ≤ 65535 →
    (s.refusalCount < 65535 → s.refusals.length ≤ s.refusalCount) → step s = .next t →
    t.refusals.length ≤ 8 ∧ t.refusalCount ≤ 65535 ∧ (t.refusalCount < 65535 → t.refusals.length ≤ t.refusalCount)

/-- The invariants of the five statements above, and that of reset, hold of the state after reset. -/
def Obligations.InvariantsHoldAtReset : Prop :=
  State.reset.Canonical ∧ State.reset.net.AttnFollows ∧ State.reset.net.Settled ∧ State.reset.net.Working ∧
  State.reset.net.slots.length ≤ 12 ∧ State.reset.refusals.length ≤ 8 ∧ State.reset.refusalCount ≤ 65535 ∧
  (State.reset.refusalCount < 65535 → State.reset.refusals.length ≤ State.reset.refusalCount) ∧
  State.reset.HeldInReset

/-- The notices of an event are taken in their order: valve notices, escalation, incident notices, sensor notices, and then ATTN is
judged (R58, R81, R127, R145, R183; the order is the model's, log 11, 13, 14, 15 and 32, and so are the rounds, log 23). A valve with
a holder gives one notice for each event, a fault if one of its changes was one, which its holders take (R145). Sensor notices are
given in ascending id, one for each sensor, and an incident gives one notice for each event (R58, R81). A fault is recorded by setting
the failed flag of the valve's entry, if it is clear, and by a pending cause in the five states that record causes; a ninth fails the
incident with CAUSE_OVERFLOW (R125, R126, R134). An incident in CLOSING takes any other notice by asking a checked, unfailed valve at
REST that is not confirmed closed to close again, and judges isolation (R93). Escalation is called for in HELD, CLOSING and ISOLATED
with a pending cause and no job: at depth 3 the incident fails with DEPTH, and else it enters SEARCHING, its hold ended, with a
BOUNDARY job one level up (R127, R128, R134). The notices leave every record's fields, every report, holder set, health and test
record, every sensor but for what its last notice showed and a restart of its learning, and every cause but OPENED, ISOLATED,
ESCALATED, FAILED and NO_INCIDENT (R58, R81, R145). -/
def Obligations.NoticesAreTakenAndLeaveWhatLasts : Prop :=
  (∀ (e : Env) (n : Net),
    let valves := drainValves e 8192 n
    let escalated := (List.range 8).foldl (fun n i => escalate e i n) valves
    settle e n = judgeAttn { drainSensors e 2048 (drainIncidents e escalated) with agenda := {} }) ∧
  (∀ (e : Env) (k : Nat) (n : Net),
    drainValves e 0 n = n ∧ drainSensors e 0 n = n ∧
    (n.agenda.valves = [] → drainValves e (k + 1) n = n) ∧ (n.agenda.sensors = [] → drainSensors e (k + 1) n = n) ∧
    (∀ a l, n.agenda.valves = a :: l → drainValves e (k + 1) n = drainValves e k ((n.valve a.valve).holders.foldl
      (fun n i => takeValveNotice e a i n) { n with agenda := { n.agenda with valves := l } })) ∧
    (n.agenda.sensors ≠ [] → drainSensors e (k + 1) n = drainSensors e k (n.agenda.sensors.foldl
      (fun n s => takeSensorNotice e s n) { n with agenda := { n.agenda with sensors := [] } })) ∧
    drainIncidents e n = (n.agenda.incidents.map fun i => decide ((n.incident i).state = .free)).foldl
      (fun n freed => takeIncidentNotice e freed n) { n with agenda := { n.agenda with incidents := [] } }) ∧
  (∀ (v : Nat) (fault : Bool) (n : Net),
    let given := n.agenda.valves
    let noted := fun l : List ValveNotice => { n with agenda := { n.agenda with valves := l } }
    ((n.valve v).holders = [] → noteValve v fault n = n) ∧
    ((n.valve v).holders ≠ [] → (∀ a ∈ given, a.valve ≠ v) → noteValve v fault n = noted (given ++ [⟨v, fault⟩])) ∧
    ((n.valve v).holders ≠ [] → (∃ a ∈ given, a.valve = v) → noteValve v fault n =
      noted (given.map fun a => if a.valve = v then { a with fault := a.fault || fault } else a))) ∧
  (∀ (ids : List Nat) (i : Nat) (n : Net),
    let t := noteSensors ids n
    let given := n.agenda.incidents
    t = { n with agenda := { n.agenda with sensors := t.agenda.sensors } } ∧
    (∀ j, j ∈ t.agenda.sensors ↔ j ∈ ids ∨ j ∈ n.agenda.sensors) ∧
    (n.agenda.sensors.Pairwise (· < ·) → t.agenda.sensors.Pairwise (· < ·)) ∧
    (i ∈ given → noteIncident i n = n) ∧
    (i ∉ given → noteIncident i n = { n with agenda := { n.agenda with incidents := given ++ [i] } })) ∧
  (∀ (r : Incident) (v : Nat),
    (r.entry v = none ↔ ∀ f ∈ r.frames, ∀ b ∈ f.boundary, b.valve ≠ v) ∧
    ∀ c b, r.entry v = some (c, b) → b.valve = v ∧ ∃ f ∈ r.frames, f.checked = c ∧ b ∈ f.boundary) ∧
  (∀ (e : Env) (v i : Nat) (n : Net), n.Canonical →
    let r := n.incident i
    let x := n.valve v
    let faulted := takeValveNotice e ⟨v, true⟩ i n
    let other := takeValveNotice e ⟨v, false⟩ i n
    let flagged := { r with frames := r.frames.map fun f => { f with
      boundary := f.boundary.map fun b => if b.valve = v then { b with failed := true } else b } }
    let records := r.state = .searching ∨ r.state = .checking ∨ r.state = .held ∨ r.state = .closing ∨ r.state = .isolated
    let again := ∃ b, r.entry v = some (true, b) ∧ b.failed = false ∧ x.motion = .rest ∧ x.confirmedClosed n.params = false
    (r.entry v = none → faulted = n) ∧
    (∀ c b, r.entry v = some (c, b) →
      (b.failed = true → faulted = n) ∧
      (b.failed = false → ¬ records → faulted = n.setIncident i flagged) ∧
      (b.failed = false → records → 8 ≤ r.pendingCauses.length →
        faulted = enterFailed e i .causeOverflow (n.setIncident i flagged)) ∧
      (b.failed = false → records → r.pendingCauses.length < 8 → faulted = { n with incidents := faulted.incidents } ∧
        faulted.incident i = { flagged with pendingCauses := r.pendingCauses ++ [v] } ∧
        ∀ j, j ≠ i → faulted.incident j = n.incident j)) ∧
    (r.state ≠ .closing → other = n) ∧ (r.state = .closing → again → other = judgeIsolation e i (closeRequest e v n)) ∧
    (r.state = .closing → ¬ again → other = judgeIsolation e i n)) ∧
  (∀ (e : Env) (i : Nat) (n : Net),
    let r := n.incident i
    let called := (r.state = .held ∨ r.state = .closing ∨ r.state = .isolated) ∧ r.pendingCauses ≠ [] ∧ r.marker = .none
    (¬ called → escalate e i n = n) ∧ (called → 3 ≤ r.depth → escalate e i n = enterFailed e i .depth n) ∧
    (called → r.depth < 3 → escalate e i n = noteIncident i (queueJob e (.boundary i (r.depth + 1)) (n.setIncident i { r with
      state := .searching, holdTimer := none, holdReason := .none })))) ∧
  ∀ (e : Env) (n : Net), n.Canonical → n.Lasts (settle e n)
end

