-- ==== Sys2Proof/Laws/State.lean ====
section
/-! SUPPORT. What each update of a record leaves of each field, true by unfolding, so that no proof opens a record update. -/

namespace Sys2Proof.Machine

section setNode
variable (n : Net) (k : Nat) (v : Node)
@[simp] theorem setNode_nodes : (n.setNode k v).nodes = store Node.atReset n.nodes k v := rfl
@[simp] theorem setNode_pipes : (n.setNode k v).pipes = n.pipes := rfl
@[simp] theorem setNode_valves : (n.setNode k v).valves = n.valves := rfl
@[simp] theorem setNode_sensors : (n.setNode k v).sensors = n.sensors := rfl
@[simp] theorem setNode_cells : (n.setNode k v).cells = n.cells := rfl
@[simp] theorem setNode_globals : (n.setNode k v).globals = n.globals := rfl
@[simp] theorem setNode_topologyAdopted : (n.setNode k v).topologyAdopted = n.topologyAdopted := rfl
@[simp] theorem setNode_sensorsAdopted : (n.setNode k v).sensorsAdopted = n.sensorsAdopted := rfl
@[simp] theorem setNode_topologyMarker : (n.setNode k v).topologyMarker = n.topologyMarker := rfl
@[simp] theorem setNode_sensorsMarker : (n.setNode k v).sensorsMarker = n.sensorsMarker := rfl
@[simp] theorem setNode_live : (n.setNode k v).live = n.live := rfl
@[simp] theorem setNode_topologyResult : (n.setNode k v).topologyResult = n.topologyResult := rfl
@[simp] theorem setNode_sensorsResult : (n.setNode k v).sensorsResult = n.sensorsResult := rfl
@[simp] theorem setNode_crossResult : (n.setNode k v).crossResult = n.crossResult := rfl
@[simp] theorem setNode_dropped : (n.setNode k v).dropped = n.dropped := rfl
@[simp] theorem setNode_incidents : (n.setNode k v).incidents = n.incidents := rfl
@[simp] theorem setNode_jobs : (n.setNode k v).jobs = n.jobs := rfl
@[simp] theorem setNode_walker : (n.setNode k v).walker = n.walker := rfl
@[simp] theorem setNode_jobsCompleted : (n.setNode k v).jobsCompleted = n.jobsCompleted := rfl
@[simp] theorem setNode_jobsStale : (n.setNode k v).jobsStale = n.jobsStale := rfl
@[simp] theorem setNode_jobsAbandoned : (n.setNode k v).jobsAbandoned = n.jobsAbandoned := rfl
@[simp] theorem setNode_queue : (n.setNode k v).queue = n.queue := rfl
@[simp] theorem setNode_slots : (n.setNode k v).slots = n.slots := rfl
@[simp] theorem setNode_passedOver : (n.setNode k v).passedOver = n.passedOver := rfl
@[simp] theorem setNode_causes : (n.setNode k v).causes = n.causes := rfl
@[simp] theorem setNode_attn : (n.setNode k v).attn = n.attn := rfl
@[simp] theorem setNode_attention : (n.setNode k v).attention = n.attention := rfl
@[simp] theorem setNode_recordErrors : (n.setNode k v).recordErrors = n.recordErrors := rfl
@[simp] theorem setNode_lastError : (n.setNode k v).lastError = n.lastError := rfl
@[simp] theorem setNode_agenda : (n.setNode k v).agenda = n.agenda := rfl
@[simp] theorem setNode_pipe (j : Nat) : (n.setNode k v).pipe j = n.pipe j := rfl
@[simp] theorem setNode_valve (j : Nat) : (n.setNode k v).valve j = n.valve j := rfl
@[simp] theorem setNode_sensor (j : Nat) : (n.setNode k v).sensor j = n.sensor j := rfl
@[simp] theorem setNode_cell (j : Nat) : (n.setNode k v).cell j = n.cell j := rfl
@[simp] theorem setNode_incident (j : Nat) : (n.setNode k v).incident j = n.incident j := rfl
@[simp] theorem setNode_cause (j : Nat) : (n.setNode k v).cause j = n.cause j := rfl
end setNode

section setPipe
variable (n : Net) (k : Nat) (v : Pipe)
@[simp] theorem setPipe_nodes : (n.setPipe k v).nodes = n.nodes := rfl
@[simp] theorem setPipe_pipes : (n.setPipe k v).pipes = store Pipe.atReset n.pipes k v := rfl
@[simp] theorem setPipe_valves : (n.setPipe k v).valves = n.valves := rfl
@[simp] theorem setPipe_sensors : (n.setPipe k v).sensors = n.sensors := rfl
@[simp] theorem setPipe_cells : (n.setPipe k v).cells = n.cells := rfl
@[simp] theorem setPipe_globals : (n.setPipe k v).globals = n.globals := rfl
@[simp] theorem setPipe_topologyAdopted : (n.setPipe k v).topologyAdopted = n.topologyAdopted := rfl
@[simp] theorem setPipe_sensorsAdopted : (n.setPipe k v).sensorsAdopted = n.sensorsAdopted := rfl
@[simp] theorem setPipe_topologyMarker : (n.setPipe k v).topologyMarker = n.topologyMarker := rfl
@[simp] theorem setPipe_sensorsMarker : (n.setPipe k v).sensorsMarker = n.sensorsMarker := rfl
@[simp] theorem setPipe_live : (n.setPipe k v).live = n.live := rfl
@[simp] theorem setPipe_topologyResult : (n.setPipe k v).topologyResult = n.topologyResult := rfl
@[simp] theorem setPipe_sensorsResult : (n.setPipe k v).sensorsResult = n.sensorsResult := rfl
@[simp] theorem setPipe_crossResult : (n.setPipe k v).crossResult = n.crossResult := rfl
@[simp] theorem setPipe_dropped : (n.setPipe k v).dropped = n.dropped := rfl
@[simp] theorem setPipe_incidents : (n.setPipe k v).incidents = n.incidents := rfl
@[simp] theorem setPipe_jobs : (n.setPipe k v).jobs = n.jobs := rfl
@[simp] theorem setPipe_walker : (n.setPipe k v).walker = n.walker := rfl
@[simp] theorem setPipe_jobsCompleted : (n.setPipe k v).jobsCompleted = n.jobsCompleted := rfl
@[simp] theorem setPipe_jobsStale : (n.setPipe k v).jobsStale = n.jobsStale := rfl
@[simp] theorem setPipe_jobsAbandoned : (n.setPipe k v).jobsAbandoned = n.jobsAbandoned := rfl
@[simp] theorem setPipe_queue : (n.setPipe k v).queue = n.queue := rfl
@[simp] theorem setPipe_slots : (n.setPipe k v).slots = n.slots := rfl
@[simp] theorem setPipe_passedOver : (n.setPipe k v).passedOver = n.passedOver := rfl
@[simp] theorem setPipe_causes : (n.setPipe k v).causes = n.causes := rfl
@[simp] theorem setPipe_attn : (n.setPipe k v).attn = n.attn := rfl
@[simp] theorem setPipe_attention : (n.setPipe k v).attention = n.attention := rfl
@[simp] theorem setPipe_recordErrors : (n.setPipe k v).recordErrors = n.recordErrors := rfl
@[simp] theorem setPipe_lastError : (n.setPipe k v).lastError = n.lastError := rfl
@[simp] theorem setPipe_agenda : (n.setPipe k v).agenda = n.agenda := rfl
@[simp] theorem setPipe_node (j : Nat) : (n.setPipe k v).node j = n.node j := rfl
@[simp] theorem setPipe_valve (j : Nat) : (n.setPipe k v).valve j = n.valve j := rfl
@[simp] theorem setPipe_sensor (j : Nat) : (n.setPipe k v).sensor j = n.sensor j := rfl
@[simp] theorem setPipe_cell (j : Nat) : (n.setPipe k v).cell j = n.cell j := rfl
@[simp] theorem setPipe_incident (j : Nat) : (n.setPipe k v).incident j = n.incident j := rfl
@[simp] theorem setPipe_cause (j : Nat) : (n.setPipe k v).cause j = n.cause j := rfl
end setPipe

section setValve
variable (n : Net) (k : Nat) (v : Valve)
@[simp] theorem setValve_nodes : (n.setValve k v).nodes = n.nodes := rfl
@[simp] theorem setValve_pipes : (n.setValve k v).pipes = n.pipes := rfl
@[simp] theorem setValve_valves : (n.setValve k v).valves = store Valve.atReset n.valves k v := rfl
@[simp] theorem setValve_sensors : (n.setValve k v).sensors = n.sensors := rfl
@[simp] theorem setValve_cells : (n.setValve k v).cells = n.cells := rfl
@[simp] theorem setValve_globals : (n.setValve k v).globals = n.globals := rfl
@[simp] theorem setValve_topologyAdopted : (n.setValve k v).topologyAdopted = n.topologyAdopted := rfl
@[simp] theorem setValve_sensorsAdopted : (n.setValve k v).sensorsAdopted = n.sensorsAdopted := rfl
@[simp] theorem setValve_topologyMarker : (n.setValve k v).topologyMarker = n.topologyMarker := rfl
@[simp] theorem setValve_sensorsMarker : (n.setValve k v).sensorsMarker = n.sensorsMarker := rfl
@[simp] theorem setValve_live : (n.setValve k v).live = n.live := rfl
@[simp] theorem setValve_topologyResult : (n.setValve k v).topologyResult = n.topologyResult := rfl
@[simp] theorem setValve_sensorsResult : (n.setValve k v).sensorsResult = n.sensorsResult := rfl
@[simp] theorem setValve_crossResult : (n.setValve k v).crossResult = n.crossResult := rfl
@[simp] theorem setValve_dropped : (n.setValve k v).dropped = n.dropped := rfl
@[simp] theorem setValve_incidents : (n.setValve k v).incidents = n.incidents := rfl
@[simp] theorem setValve_jobs : (n.setValve k v).jobs = n.jobs := rfl
@[simp] theorem setValve_walker : (n.setValve k v).walker = n.walker := rfl
@[simp] theorem setValve_jobsCompleted : (n.setValve k v).jobsCompleted = n.jobsCompleted := rfl
@[simp] theorem setValve_jobsStale : (n.setValve k v).jobsStale = n.jobsStale := rfl
@[simp] theorem setValve_jobsAbandoned : (n.setValve k v).jobsAbandoned = n.jobsAbandoned := rfl
@[simp] theorem setValve_queue : (n.setValve k v).queue = n.queue := rfl
@[simp] theorem setValve_slots : (n.setValve k v).slots = n.slots := rfl
@[simp] theorem setValve_passedOver : (n.setValve k v).passedOver = n.passedOver := rfl
@[simp] theorem setValve_causes : (n.setValve k v).causes = n.causes := rfl
@[simp] theorem setValve_attn : (n.setValve k v).attn = n.attn := rfl
@[simp] theorem setValve_attention : (n.setValve k v).attention = n.attention := rfl
@[simp] theorem setValve_recordErrors : (n.setValve k v).recordErrors = n.recordErrors := rfl
@[simp] theorem setValve_lastError : (n.setValve k v).lastError = n.lastError := rfl
@[simp] theorem setValve_agenda : (n.setValve k v).agenda = n.agenda := rfl
@[simp] theorem setValve_node (j : Nat) : (n.setValve k v).node j = n.node j := rfl
@[simp] theorem setValve_pipe (j : Nat) : (n.setValve k v).pipe j = n.pipe j := rfl
@[simp] theorem setValve_sensor (j : Nat) : (n.setValve k v).sensor j = n.sensor j := rfl
@[simp] theorem setValve_cell (j : Nat) : (n.setValve k v).cell j = n.cell j := rfl
@[simp] theorem setValve_incident (j : Nat) : (n.setValve k v).incident j = n.incident j := rfl
@[simp] theorem setValve_cause (j : Nat) : (n.setValve k v).cause j = n.cause j := rfl
end setValve

section setSensor
variable (n : Net) (k : Nat) (v : Sensor)
@[simp] theorem setSensor_nodes : (n.setSensor k v).nodes = n.nodes := rfl
@[simp] theorem setSensor_pipes : (n.setSensor k v).pipes = n.pipes := rfl
@[simp] theorem setSensor_valves : (n.setSensor k v).valves = n.valves := rfl
@[simp] theorem setSensor_sensors : (n.setSensor k v).sensors = store Sensor.atReset n.sensors k v := rfl
@[simp] theorem setSensor_cells : (n.setSensor k v).cells = n.cells := rfl
@[simp] theorem setSensor_globals : (n.setSensor k v).globals = n.globals := rfl
@[simp] theorem setSensor_topologyAdopted : (n.setSensor k v).topologyAdopted = n.topologyAdopted := rfl
@[simp] theorem setSensor_sensorsAdopted : (n.setSensor k v).sensorsAdopted = n.sensorsAdopted := rfl
@[simp] theorem setSensor_topologyMarker : (n.setSensor k v).topologyMarker = n.topologyMarker := rfl
@[simp] theorem setSensor_sensorsMarker : (n.setSensor k v).sensorsMarker = n.sensorsMarker := rfl
@[simp] theorem setSensor_live : (n.setSensor k v).live = n.live := rfl
@[simp] theorem setSensor_topologyResult : (n.setSensor k v).topologyResult = n.topologyResult := rfl
@[simp] theorem setSensor_sensorsResult : (n.setSensor k v).sensorsResult = n.sensorsResult := rfl
@[simp] theorem setSensor_crossResult : (n.setSensor k v).crossResult = n.crossResult := rfl
@[simp] theorem setSensor_dropped : (n.setSensor k v).dropped = n.dropped := rfl
@[simp] theorem setSensor_incidents : (n.setSensor k v).incidents = n.incidents := rfl
@[simp] theorem setSensor_jobs : (n.setSensor k v).jobs = n.jobs := rfl
@[simp] theorem setSensor_walker : (n.setSensor k v).walker = n.walker := rfl
@[simp] theorem setSensor_jobsCompleted : (n.setSensor k v).jobsCompleted = n.jobsCompleted := rfl
@[simp] theorem setSensor_jobsStale : (n.setSensor k v).jobsStale = n.jobsStale := rfl
@[simp] theorem setSensor_jobsAbandoned : (n.setSensor k v).jobsAbandoned = n.jobsAbandoned := rfl
@[simp] theorem setSensor_queue : (n.setSensor k v).queue = n.queue := rfl
@[simp] theorem setSensor_slots : (n.setSensor k v).slots = n.slots := rfl
@[simp] theorem setSensor_passedOver : (n.setSensor k v).passedOver = n.passedOver := rfl
@[simp] theorem setSensor_causes : (n.setSensor k v).causes = n.causes := rfl
@[simp] theorem setSensor_attn : (n.setSensor k v).attn = n.attn := rfl
@[simp] theorem setSensor_attention : (n.setSensor k v).attention = n.attention := rfl
@[simp] theorem setSensor_recordErrors : (n.setSensor k v).recordErrors = n.recordErrors := rfl
@[simp] theorem setSensor_lastError : (n.setSensor k v).lastError = n.lastError := rfl
@[simp] theorem setSensor_agenda : (n.setSensor k v).agenda = n.agenda := rfl
@[simp] theorem setSensor_node (j : Nat) : (n.setSensor k v).node j = n.node j := rfl
@[simp] theorem setSensor_pipe (j : Nat) : (n.setSensor k v).pipe j = n.pipe j := rfl
@[simp] theorem setSensor_valve (j : Nat) : (n.setSensor k v).valve j = n.valve j := rfl
@[simp] theorem setSensor_cell (j : Nat) : (n.setSensor k v).cell j = n.cell j := rfl
@[simp] theorem setSensor_incident (j : Nat) : (n.setSensor k v).incident j = n.incident j := rfl
@[simp] theorem setSensor_cause (j : Nat) : (n.setSensor k v).cause j = n.cause j := rfl
end setSensor

section setCell
variable (n : Net) (k : Nat) (v : Cell)
@[simp] theorem setCell_nodes : (n.setCell k v).nodes = n.nodes := rfl
@[simp] theorem setCell_pipes : (n.setCell k v).pipes = n.pipes := rfl
@[simp] theorem setCell_valves : (n.setCell k v).valves = n.valves := rfl
@[simp] theorem setCell_sensors : (n.setCell k v).sensors = n.sensors := rfl
@[simp] theorem setCell_cells : (n.setCell k v).cells = store Cell.atReset n.cells k v := rfl
@[simp] theorem setCell_globals : (n.setCell k v).globals = n.globals := rfl
@[simp] theorem setCell_topologyAdopted : (n.setCell k v).topologyAdopted = n.topologyAdopted := rfl
@[simp] theorem setCell_sensorsAdopted : (n.setCell k v).sensorsAdopted = n.sensorsAdopted := rfl
@[simp] theorem setCell_topologyMarker : (n.setCell k v).topologyMarker = n.topologyMarker := rfl
@[simp] theorem setCell_sensorsMarker : (n.setCell k v).sensorsMarker = n.sensorsMarker := rfl
@[simp] theorem setCell_live : (n.setCell k v).live = n.live := rfl
@[simp] theorem setCell_topologyResult : (n.setCell k v).topologyResult = n.topologyResult := rfl
@[simp] theorem setCell_sensorsResult : (n.setCell k v).sensorsResult = n.sensorsResult := rfl
@[simp] theorem setCell_crossResult : (n.setCell k v).crossResult = n.crossResult := rfl
@[simp] theorem setCell_dropped : (n.setCell k v).dropped = n.dropped := rfl
@[simp] theorem setCell_incidents : (n.setCell k v).incidents = n.incidents := rfl
@[simp] theorem setCell_jobs : (n.setCell k v).jobs = n.jobs := rfl
@[simp] theorem setCell_walker : (n.setCell k v).walker = n.walker := rfl
@[simp] theorem setCell_jobsCompleted : (n.setCell k v).jobsCompleted = n.jobsCompleted := rfl
@[simp] theorem setCell_jobsStale : (n.setCell k v).jobsStale = n.jobsStale := rfl
@[simp] theorem setCell_jobsAbandoned : (n.setCell k v).jobsAbandoned = n.jobsAbandoned := rfl
@[simp] theorem setCell_queue : (n.setCell k v).queue = n.queue := rfl
@[simp] theorem setCell_slots : (n.setCell k v).slots = n.slots := rfl
@[simp] theorem setCell_passedOver : (n.setCell k v).passedOver = n.passedOver := rfl
@[simp] theorem setCell_causes : (n.setCell k v).causes = n.causes := rfl
@[simp] theorem setCell_attn : (n.setCell k v).attn = n.attn := rfl
@[simp] theorem setCell_attention : (n.setCell k v).attention = n.attention := rfl
@[simp] theorem setCell_recordErrors : (n.setCell k v).recordErrors = n.recordErrors := rfl
@[simp] theorem setCell_lastError : (n.setCell k v).lastError = n.lastError := rfl
@[simp] theorem setCell_agenda : (n.setCell k v).agenda = n.agenda := rfl
@[simp] theorem setCell_node (j : Nat) : (n.setCell k v).node j = n.node j := rfl
@[simp] theorem setCell_pipe (j : Nat) : (n.setCell k v).pipe j = n.pipe j := rfl
@[simp] theorem setCell_valve (j : Nat) : (n.setCell k v).valve j = n.valve j := rfl
@[simp] theorem setCell_sensor (j : Nat) : (n.setCell k v).sensor j = n.sensor j := rfl
@[simp] theorem setCell_incident (j : Nat) : (n.setCell k v).incident j = n.incident j := rfl
@[simp] theorem setCell_cause (j : Nat) : (n.setCell k v).cause j = n.cause j := rfl
end setCell

section setIncident
variable (n : Net) (k : Nat) (v : Incident)
@[simp] theorem setIncident_nodes : (n.setIncident k v).nodes = n.nodes := rfl
@[simp] theorem setIncident_pipes : (n.setIncident k v).pipes = n.pipes := rfl
@[simp] theorem setIncident_valves : (n.setIncident k v).valves = n.valves := rfl
@[simp] theorem setIncident_sensors : (n.setIncident k v).sensors = n.sensors := rfl
@[simp] theorem setIncident_cells : (n.setIncident k v).cells = n.cells := rfl
@[simp] theorem setIncident_globals : (n.setIncident k v).globals = n.globals := rfl
@[simp] theorem setIncident_topologyAdopted : (n.setIncident k v).topologyAdopted = n.topologyAdopted := rfl
@[simp] theorem setIncident_sensorsAdopted : (n.setIncident k v).sensorsAdopted = n.sensorsAdopted := rfl
@[simp] theorem setIncident_topologyMarker : (n.setIncident k v).topologyMarker = n.topologyMarker := rfl
@[simp] theorem setIncident_sensorsMarker : (n.setIncident k v).sensorsMarker = n.sensorsMarker := rfl
@[simp] theorem setIncident_live : (n.setIncident k v).live = n.live := rfl
@[simp] theorem setIncident_topologyResult : (n.setIncident k v).topologyResult = n.topologyResult := rfl
@[simp] theorem setIncident_sensorsResult : (n.setIncident k v).sensorsResult = n.sensorsResult := rfl
@[simp] theorem setIncident_crossResult : (n.setIncident k v).crossResult = n.crossResult := rfl
@[simp] theorem setIncident_dropped : (n.setIncident k v).dropped = n.dropped := rfl
@[simp] theorem setIncident_incidents : (n.setIncident k v).incidents = store Incident.atReset n.incidents k v := rfl
@[simp] theorem setIncident_jobs : (n.setIncident k v).jobs = n.jobs := rfl
@[simp] theorem setIncident_walker : (n.setIncident k v).walker = n.walker := rfl
@[simp] theorem setIncident_jobsCompleted : (n.setIncident k v).jobsCompleted = n.jobsCompleted := rfl
@[simp] theorem setIncident_jobsStale : (n.setIncident k v).jobsStale = n.jobsStale := rfl
@[simp] theorem setIncident_jobsAbandoned : (n.setIncident k v).jobsAbandoned = n.jobsAbandoned := rfl
@[simp] theorem setIncident_queue : (n.setIncident k v).queue = n.queue := rfl
@[simp] theorem setIncident_slots : (n.setIncident k v).slots = n.slots := rfl
@[simp] theorem setIncident_passedOver : (n.setIncident k v).passedOver = n.passedOver := rfl
@[simp] theorem setIncident_causes : (n.setIncident k v).causes = n.causes := rfl
@[simp] theorem setIncident_attn : (n.setIncident k v).attn = n.attn := rfl
@[simp] theorem setIncident_attention : (n.setIncident k v).attention = n.attention := rfl
@[simp] theorem setIncident_recordErrors : (n.setIncident k v).recordErrors = n.recordErrors := rfl
@[simp] theorem setIncident_lastError : (n.setIncident k v).lastError = n.lastError := rfl
@[simp] theorem setIncident_agenda : (n.setIncident k v).agenda = n.agenda := rfl
@[simp] theorem setIncident_node (j : Nat) : (n.setIncident k v).node j = n.node j := rfl
@[simp] theorem setIncident_pipe (j : Nat) : (n.setIncident k v).pipe j = n.pipe j := rfl
@[simp] theorem setIncident_valve (j : Nat) : (n.setIncident k v).valve j = n.valve j := rfl
@[simp] theorem setIncident_sensor (j : Nat) : (n.setIncident k v).sensor j = n.sensor j := rfl
@[simp] theorem setIncident_cell (j : Nat) : (n.setIncident k v).cell j = n.cell j := rfl
@[simp] theorem setIncident_cause (j : Nat) : (n.setIncident k v).cause j = n.cause j := rfl
end setIncident

section setCause
variable (n : Net) (k : Nat) (v : CauseRecord)
@[simp] theorem setCause_nodes : (n.setCause k v).nodes = n.nodes := rfl
@[simp] theorem setCause_pipes : (n.setCause k v).pipes = n.pipes := rfl
@[simp] theorem setCause_valves : (n.setCause k v).valves = n.valves := rfl
@[simp] theorem setCause_sensors : (n.setCause k v).sensors = n.sensors := rfl
@[simp] theorem setCause_cells : (n.setCause k v).cells = n.cells := rfl
@[simp] theorem setCause_globals : (n.setCause k v).globals = n.globals := rfl
@[simp] theorem setCause_topologyAdopted : (n.setCause k v).topologyAdopted = n.topologyAdopted := rfl
@[simp] theorem setCause_sensorsAdopted : (n.setCause k v).sensorsAdopted = n.sensorsAdopted := rfl
@[simp] theorem setCause_topologyMarker : (n.setCause k v).topologyMarker = n.topologyMarker := rfl
@[simp] theorem setCause_sensorsMarker : (n.setCause k v).sensorsMarker = n.sensorsMarker := rfl
@[simp] theorem setCause_live : (n.setCause k v).live = n.live := rfl
@[simp] theorem setCause_topologyResult : (n.setCause k v).topologyResult = n.topologyResult := rfl
@[simp] theorem setCause_sensorsResult : (n.setCause k v).sensorsResult = n.sensorsResult := rfl
@[simp] theorem setCause_crossResult : (n.setCause k v).crossResult = n.crossResult := rfl
@[simp] theorem setCause_dropped : (n.setCause k v).dropped = n.dropped := rfl
@[simp] theorem setCause_incidents : (n.setCause k v).incidents = n.incidents := rfl
@[simp] theorem setCause_jobs : (n.setCause k v).jobs = n.jobs := rfl
@[simp] theorem setCause_walker : (n.setCause k v).walker = n.walker := rfl
@[simp] theorem setCause_jobsCompleted : (n.setCause k v).jobsCompleted = n.jobsCompleted := rfl
@[simp] theorem setCause_jobsStale : (n.setCause k v).jobsStale = n.jobsStale := rfl
@[simp] theorem setCause_jobsAbandoned : (n.setCause k v).jobsAbandoned = n.jobsAbandoned := rfl
@[simp] theorem setCause_queue : (n.setCause k v).queue = n.queue := rfl
@[simp] theorem setCause_slots : (n.setCause k v).slots = n.slots := rfl
@[simp] theorem setCause_passedOver : (n.setCause k v).passedOver = n.passedOver := rfl
@[simp] theorem setCause_causes : (n.setCause k v).causes = store CauseRecord.atReset n.causes k v := rfl
@[simp] theorem setCause_attn : (n.setCause k v).attn = n.attn := rfl
@[simp] theorem setCause_attention : (n.setCause k v).attention = n.attention := rfl
@[simp] theorem setCause_recordErrors : (n.setCause k v).recordErrors = n.recordErrors := rfl
@[simp] theorem setCause_lastError : (n.setCause k v).lastError = n.lastError := rfl
@[simp] theorem setCause_agenda : (n.setCause k v).agenda = n.agenda := rfl
@[simp] theorem setCause_node (j : Nat) : (n.setCause k v).node j = n.node j := rfl
@[simp] theorem setCause_pipe (j : Nat) : (n.setCause k v).pipe j = n.pipe j := rfl
@[simp] theorem setCause_valve (j : Nat) : (n.setCause k v).valve j = n.valve j := rfl
@[simp] theorem setCause_sensor (j : Nat) : (n.setCause k v).sensor j = n.sensor j := rfl
@[simp] theorem setCause_cell (j : Nat) : (n.setCause k v).cell j = n.cell j := rfl
@[simp] theorem setCause_incident (j : Nat) : (n.setCause k v).incident j = n.incident j := rfl
end setCause

section judgeAttn
variable (n : Net)
@[simp] theorem judgeAttn_nodes : (judgeAttn n).nodes = n.nodes := rfl
@[simp] theorem judgeAttn_pipes : (judgeAttn n).pipes = n.pipes := rfl
@[simp] theorem judgeAttn_valves : (judgeAttn n).valves = n.valves := rfl
@[simp] theorem judgeAttn_sensors : (judgeAttn n).sensors = n.sensors := rfl
@[simp] theorem judgeAttn_cells : (judgeAttn n).cells = n.cells := rfl
@[simp] theorem judgeAttn_globals : (judgeAttn n).globals = n.globals := rfl
@[simp] theorem judgeAttn_topologyAdopted : (judgeAttn n).topologyAdopted = n.topologyAdopted := rfl
@[simp] theorem judgeAttn_sensorsAdopted : (judgeAttn n).sensorsAdopted = n.sensorsAdopted := rfl
@[simp] theorem judgeAttn_topologyMarker : (judgeAttn n).topologyMarker = n.topologyMarker := rfl
@[simp] theorem judgeAttn_sensorsMarker : (judgeAttn n).sensorsMarker = n.sensorsMarker := rfl
@[simp] theorem judgeAttn_live : (judgeAttn n).live = n.live := rfl
@[simp] theorem judgeAttn_topologyResult : (judgeAttn n).topologyResult = n.topologyResult := rfl
@[simp] theorem judgeAttn_sensorsResult : (judgeAttn n).sensorsResult = n.sensorsResult := rfl
@[simp] theorem judgeAttn_crossResult : (judgeAttn n).crossResult = n.crossResult := rfl
@[simp] theorem judgeAttn_dropped : (judgeAttn n).dropped = n.dropped := rfl
@[simp] theorem judgeAttn_incidents : (judgeAttn n).incidents = n.incidents := rfl
@[simp] theorem judgeAttn_jobs : (judgeAttn n).jobs = n.jobs := rfl
@[simp] theorem judgeAttn_walker : (judgeAttn n).walker = n.walker := rfl
@[simp] theorem judgeAttn_jobsCompleted : (judgeAttn n).jobsCompleted = n.jobsCompleted := rfl
@[simp] theorem judgeAttn_jobsStale : (judgeAttn n).jobsStale = n.jobsStale := rfl
@[simp] theorem judgeAttn_jobsAbandoned : (judgeAttn n).jobsAbandoned = n.jobsAbandoned := rfl
@[simp] theorem judgeAttn_queue : (judgeAttn n).queue = n.queue := rfl
@[simp] theorem judgeAttn_slots : (judgeAttn n).slots = n.slots := rfl
@[simp] theorem judgeAttn_passedOver : (judgeAttn n).passedOver = n.passedOver := rfl
@[simp] theorem judgeAttn_causes : (judgeAttn n).causes = n.causes := rfl
@[simp] theorem judgeAttn_attn : (judgeAttn n).attn = drawsAttention n := rfl
@[simp] theorem judgeAttn_recordErrors : (judgeAttn n).recordErrors = n.recordErrors := rfl
@[simp] theorem judgeAttn_lastError : (judgeAttn n).lastError = n.lastError := rfl
@[simp] theorem judgeAttn_agenda : (judgeAttn n).agenda = n.agenda := rfl
@[simp] theorem judgeAttn_node (j : Nat) : (judgeAttn n).node j = n.node j := rfl
@[simp] theorem judgeAttn_pipe (j : Nat) : (judgeAttn n).pipe j = n.pipe j := rfl
@[simp] theorem judgeAttn_valve (j : Nat) : (judgeAttn n).valve j = n.valve j := rfl
@[simp] theorem judgeAttn_sensor (j : Nat) : (judgeAttn n).sensor j = n.sensor j := rfl
@[simp] theorem judgeAttn_cell (j : Nat) : (judgeAttn n).cell j = n.cell j := rfl
@[simp] theorem judgeAttn_incident (j : Nat) : (judgeAttn n).incident j = n.incident j := rfl
@[simp] theorem judgeAttn_cause (j : Nat) : (judgeAttn n).cause j = n.cause j := rfl
@[simp] theorem judgeAttn_judgeAttn : judgeAttn (judgeAttn n) = judgeAttn n := rfl
end judgeAttn

/-! ### The part -/

section event
variable (f : Env → Net → Net) (s : State)
@[simp] theorem event_pending : (s.event f).pending = s.pending := by simp only [State.event]
@[simp] theorem event_resetAsserted : (s.event f).resetAsserted = s.resetAsserted := by simp only [State.event]
@[simp] theorem event_anch : (s.event f).anch = s.anch := by simp only [State.event]
@[simp] theorem event_linkid : (s.event f).linkid = s.linkid := by simp only [State.event]
@[simp] theorem event_time : (s.event f).time = s.time := by simp only [State.event]
@[simp] theorem event_port : (s.event f).port = s.port := by simp only [State.event]
@[simp] theorem event_imageBuffer : (s.event f).imageBuffer = s.imageBuffer := by simp only [State.event]
@[simp] theorem event_imageSlot : (s.event f).imageSlot = s.imageSlot := by simp only [State.event]
@[simp] theorem event_sampleLatches : (s.event f).sampleLatches = s.sampleLatches := by simp only [State.event]
@[simp] theorem event_positionLatches : (s.event f).positionLatches = s.positionLatches := by simp only [State.event]
@[simp] theorem event_controlBuffer : (s.event f).controlBuffer = s.controlBuffer := by simp only [State.event]
@[simp] theorem event_shadow : (s.event f).shadow = s.shadow := by simp only [State.event]
@[simp] theorem event_refusals : (s.event f).refusals = s.refusals := by simp only [State.event]
@[simp] theorem event_refusalCount : (s.event f).refusalCount = s.refusalCount := by simp only [State.event]
@[simp] theorem event_controlResult : (s.event f).controlResult = s.controlResult := by simp only [State.event]
@[simp] theorem event_net : (s.event f).net = settle s.env (f s.env s.net) := by simp only [State.event]
end event

section setLatch
variable (s : State) (r : RecordWord) (l : Latch)
@[simp] theorem setLatch_pending : (s.setLatch r l).pending = s.pending := by cases r <;> rfl
@[simp] theorem setLatch_resetAsserted : (s.setLatch r l).resetAsserted = s.resetAsserted := by cases r <;> rfl
@[simp] theorem setLatch_anch : (s.setLatch r l).anch = s.anch := by cases r <;> rfl
@[simp] theorem setLatch_linkid : (s.setLatch r l).linkid = s.linkid := by cases r <;> rfl
@[simp] theorem setLatch_time : (s.setLatch r l).time = s.time := by cases r <;> rfl
@[simp] theorem setLatch_port : (s.setLatch r l).port = s.port := by cases r <;> rfl
@[simp] theorem setLatch_imageSlot : (s.setLatch r l).imageSlot = s.imageSlot := by cases r <;> rfl
@[simp] theorem setLatch_shadow : (s.setLatch r l).shadow = s.shadow := by cases r <;> rfl
@[simp] theorem setLatch_refusals : (s.setLatch r l).refusals = s.refusals := by cases r <;> rfl
@[simp] theorem setLatch_refusalCount : (s.setLatch r l).refusalCount = s.refusalCount := by cases r <;> rfl
@[simp] theorem setLatch_controlResult : (s.setLatch r l).controlResult = s.controlResult := by cases r <;> rfl
@[simp] theorem setLatch_net : (s.setLatch r l).net = s.net := by cases r <;> rfl
end setLatch

section clearMark
variable (s : State) (r : RecordWord)
@[simp] theorem clearMark_pending : (s.clearMark r).pending = s.pending := by cases r <;> rfl
@[simp] theorem clearMark_resetAsserted : (s.clearMark r).resetAsserted = s.resetAsserted := by cases r <;> rfl
@[simp] theorem clearMark_anch : (s.clearMark r).anch = s.anch := by cases r <;> rfl
@[simp] theorem clearMark_linkid : (s.clearMark r).linkid = s.linkid := by cases r <;> rfl
@[simp] theorem clearMark_time : (s.clearMark r).time = s.time := by cases r <;> rfl
@[simp] theorem clearMark_port : (s.clearMark r).port = s.port := by cases r <;> rfl
@[simp] theorem clearMark_imageSlot : (s.clearMark r).imageSlot = s.imageSlot := by cases r <;> rfl
@[simp] theorem clearMark_shadow : (s.clearMark r).shadow = s.shadow := by cases r <;> rfl
@[simp] theorem clearMark_refusals : (s.clearMark r).refusals = s.refusals := by cases r <;> rfl
@[simp] theorem clearMark_refusalCount : (s.clearMark r).refusalCount = s.refusalCount := by cases r <;> rfl
@[simp] theorem clearMark_controlResult : (s.clearMark r).controlResult = s.controlResult := by cases r <;> rfl
@[simp] theorem clearMark_net : (s.clearMark r).net = s.net := by cases r <;> rfl
end clearMark

section clearMarks
variable (s : State) (r : RecordWord)
@[simp] theorem clearMarks_pending : (s.clearMarks r).pending = s.pending := by
  cases r <;> simp only [State.clearMarks, partsOf, List.foldl, clearMark_pending]
@[simp] theorem clearMarks_resetAsserted : (s.clearMarks r).resetAsserted = s.resetAsserted := by
  cases r <;> simp only [State.clearMarks, partsOf, List.foldl, clearMark_resetAsserted]
@[simp] theorem clearMarks_anch : (s.clearMarks r).anch = s.anch := by
  cases r <;> simp only [State.clearMarks, partsOf, List.foldl, clearMark_anch]
@[simp] theorem clearMarks_linkid : (s.clearMarks r).linkid = s.linkid := by
  cases r <;> simp only [State.clearMarks, partsOf, List.foldl, clearMark_linkid]
@[simp] theorem clearMarks_time : (s.clearMarks r).time = s.time := by
  cases r <;> simp only [State.clearMarks, partsOf, List.foldl, clearMark_time]
@[simp] theorem clearMarks_port : (s.clearMarks r).port = s.port := by
  cases r <;> simp only [State.clearMarks, partsOf, List.foldl, clearMark_port]
@[simp] theorem clearMarks_imageSlot : (s.clearMarks r).imageSlot = s.imageSlot := by
  cases r <;> simp only [State.clearMarks, partsOf, List.foldl, clearMark_imageSlot]
@[simp] theorem clearMarks_shadow : (s.clearMarks r).shadow = s.shadow := by
  cases r <;> simp only [State.clearMarks, partsOf, List.foldl, clearMark_shadow]
@[simp] theorem clearMarks_refusals : (s.clearMarks r).refusals = s.refusals := by
  cases r <;> simp only [State.clearMarks, partsOf, List.foldl, clearMark_refusals]
@[simp] theorem clearMarks_refusalCount : (s.clearMarks r).refusalCount = s.refusalCount := by
  cases r <;> simp only [State.clearMarks, partsOf, List.foldl, clearMark_refusalCount]
@[simp] theorem clearMarks_controlResult : (s.clearMarks r).controlResult = s.controlResult := by
  cases r <;> simp only [State.clearMarks, partsOf, List.foldl, clearMark_controlResult]
@[simp] theorem clearMarks_net : (s.clearMarks r).net = s.net := by
  cases r <;> simp only [State.clearMarks, partsOf, List.foldl, clearMark_net]
end clearMarks

end Sys2Proof.Machine
end

