-- ==== Sys2Proof/Laws/Tables.lean ====
section
/-! SUPPORT. What reads, writes and maps of a sparse table do, and that each keeps the canonical form. -/

namespace Sys2Proof.Machine

variable {α : Type}

/-! ### Ids that rise -/

theorem risesFrom_mono {lo lo' : Nat} {t : Table α} (hle : lo' ≤ lo) (h : risesFrom lo t = true) : risesFrom lo' t = true := by
  cases t with
  | nil => rfl
  | cons kv t => simp only [risesFrom, Bool.and_eq_true, decide_eq_true_eq] at h ⊢; exact ⟨by omega, h.2⟩

theorem lookup_of_below {d : α} {lo k : Nat} {t : Table α} (h : risesFrom lo t = true) (hk : k < lo) : lookup d t k = d := by
  induction t generalizing lo with
  | nil => rfl
  | cons kv t ih =>
    simp only [risesFrom, Bool.and_eq_true, decide_eq_true_eq] at h
    simp only [lookup]
    rw [if_neg (by omega)]
    exact ih h.2 (by omega)

theorem risesFrom_put {lo k : Nat} {v : α} {t : Table α} (h : risesFrom lo t = true) (hk : lo ≤ k) :
    risesFrom lo (put k v t) = true := by
  induction t generalizing lo with
  | nil => simp [put, risesFrom, hk]
  | cons kv t ih =>
    simp only [risesFrom, Bool.and_eq_true, decide_eq_true_eq] at h
    simp only [put]
    split
    · simp only [risesFrom, Bool.and_eq_true, decide_eq_true_eq]; exact ⟨hk, by omega, h.2⟩
    · split
      · rename_i _ he; simp only [risesFrom, Bool.and_eq_true, decide_eq_true_eq]; exact ⟨hk, he ▸ h.2⟩
      · simp only [risesFrom, Bool.and_eq_true, decide_eq_true_eq]; exact ⟨h.1, ih h.2 (by omega)⟩

theorem risesFrom_remove {lo k : Nat} {t : Table α} (h : risesFrom lo t = true) : risesFrom lo (remove k t) = true := by
  induction t generalizing lo with
  | nil => rfl
  | cons kv t ih =>
    simp only [risesFrom, Bool.and_eq_true, decide_eq_true_eq] at h
    simp only [remove]
    split
    · exact risesFrom_mono (by omega) h.2
    · simp only [risesFrom, Bool.and_eq_true, decide_eq_true_eq]; exact ⟨h.1, ih h.2⟩

theorem lookup_cons_same (d : α) (k : Nat) (v : α) (t : Table α) : lookup d ((k, v) :: t) k = v := by
  simp only [lookup, if_true]

theorem lookup_cons_other (d : α) {k j : Nat} (h : k ≠ j) (v : α) (t : Table α) :
    lookup d ((k, v) :: t) j = lookup d t j := by
  simp only [lookup, if_neg h]

theorem lookup_put_same (d : α) (t : Table α) (k : Nat) (v : α) : lookup d (put k v t) k = v := by
  induction t with
  | nil => exact lookup_cons_same ..
  | cons kv t ih =>
    simp only [put]
    split
    · exact lookup_cons_same ..
    · split
      · exact lookup_cons_same ..
      · rw [lookup_cons_other _ (by omega)]; exact ih

theorem lookup_put_other (d : α) (t : Table α) {k j : Nat} (h : j ≠ k) (v : α) :
    lookup d (put k v t) j = lookup d t j := by
  induction t with
  | nil => exact lookup_cons_other _ (Ne.symm h) ..
  | cons kv t ih =>
    simp only [put]
    split
    · exact lookup_cons_other _ (Ne.symm h) ..
    · split
      · rw [lookup_cons_other _ (Ne.symm h), lookup_cons_other _ (by omega)]
      · simp only [lookup, ih]

theorem lookup_put (d : α) (t : Table α) (k j : Nat) (v : α) :
    lookup d (put k v t) j = if j = k then v else lookup d t j := by
  split
  · subst_vars; exact lookup_put_same ..
  · exact lookup_put_other _ _ ‹_› _

theorem lookup_remove {d : α} {lo : Nat} {t : Table α} (h : risesFrom lo t = true) (k j : Nat) :
    lookup d (remove k t) j = if j = k then d else lookup d t j := by
  induction t generalizing lo with
  | nil => simp [remove, lookup]
  | cons kv t ih =>
    simp only [risesFrom, Bool.and_eq_true, decide_eq_true_eq] at h
    simp only [remove]
    split
    · rename_i hk
      split
      · rename_i hj; exact lookup_of_below h.2 (by omega)
      · simp only [lookup]; rw [if_neg (by omega)]
    · simp only [lookup]
      split
      · rw [if_neg (by omega)]
      · exact ih h.2

/-! ### Membership -/

theorem mem_put {kv : Nat × α} {k : Nat} {v : α} {t : Table α} (h : kv ∈ put k v t) : kv = (k, v) ∨ kv ∈ t := by
  induction t with
  | nil => simpa [put] using h
  | cons x t ih =>
    simp only [put] at h
    split at h
    · simpa using h
    · split at h
      · rcases List.mem_cons.1 h with h | h
        · exact .inl h
        · exact .inr (List.mem_cons_of_mem _ h)
      · rcases List.mem_cons.1 h with h | h
        · exact .inr (h ▸ List.mem_cons_self ..)
        · exact (ih h).imp id (List.mem_cons_of_mem _)

theorem mem_remove {kv : Nat × α} {k : Nat} {t : Table α} (h : kv ∈ remove k t) : kv ∈ t := by
  induction t with
  | nil => simp [remove] at h
  | cons x t ih =>
    simp only [remove] at h
    split at h
    · exact List.mem_cons_of_mem _ h
    · rcases List.mem_cons.1 h with h | h
      · exact h ▸ List.mem_cons_self ..
      · exact List.mem_cons_of_mem _ (ih h)

theorem lookup_of_mem {d : α} {lo : Nat} {kv : Nat × α} {t : Table α} (h : risesFrom lo t = true) (hm : kv ∈ t) :
    lo ≤ kv.1 ∧ lookup d t kv.1 = kv.2 := by
  induction t generalizing lo with
  | nil => cases hm
  | cons x t ih =>
    simp only [risesFrom, Bool.and_eq_true, decide_eq_true_eq] at h
    simp only [lookup]
    rcases List.mem_cons.1 hm with hm | hm
    · subst hm; simp [h.1]
    · have := ih h.2 hm; rw [if_neg (by omega)]; exact ⟨by omega, this.2⟩

theorem mem_of_lookup {d : α} {k : Nat} {t : Table α} (h : lookup d t k ≠ d) : (k, lookup d t k) ∈ t := by
  induction t with
  | nil => simp [lookup] at h
  | cons x t ih =>
    simp only [lookup] at h ⊢
    split at h
    · rename_i hk; subst hk; simp
    · rename_i hk; rw [if_neg hk]; exact List.mem_cons_of_mem _ (ih h)

/-! ### The canonical form -/

variable [DecidableEq α]

theorem tableWf_iff {d : α} {t : Table α} : tableWf d t = true ↔ risesFrom 0 t = true ∧ ∀ kv ∈ t, kv.2 ≠ d := by
  simp [tableWf]

theorem tableWf_store {d v : α} {k : Nat} {t : Table α} (h : tableWf d t = true) : tableWf d (store d t k v) = true := by
  rw [tableWf_iff] at h ⊢
  unfold store
  split
  · exact ⟨risesFrom_remove h.1, fun kv hm => h.2 kv (mem_remove hm)⟩
  · rename_i hv
    refine ⟨risesFrom_put h.1 (Nat.zero_le _), fun kv hm => ?_⟩
    rcases mem_put hm with rfl | hm
    · exact hv
    · exact h.2 kv hm

theorem lookup_store {d : α} {t : Table α} (h : tableWf d t = true) (k j : Nat) (v : α) :
    lookup d (store d t k v) j = if j = k then v else lookup d t j := by
  rw [tableWf_iff] at h
  unfold store
  split
  · rename_i hv; rw [lookup_remove h.1, hv]
  · exact lookup_put ..

theorem lookup_store_same {d : α} {t : Table α} (h : tableWf d t = true) (k : Nat) (v : α) : lookup d (store d t k v) k = v := by
  rw [lookup_store h, if_pos rfl]

theorem lookup_store_other {d : α} {t : Table α} (h : tableWf d t = true) {k j : Nat} (hj : j ≠ k) (v : α) :
    lookup d (store d t k v) j = lookup d t j := by
  rw [lookup_store h, if_neg hj]

theorem risesFrom_mapTable {d : α} {lo : Nat} {f : Nat → α → α} {t : Table α} (h : risesFrom lo t = true) :
    risesFrom lo (mapTable d f t) = true := by
  induction t generalizing lo with
  | nil => rfl
  | cons x t ih =>
    simp only [risesFrom, Bool.and_eq_true, decide_eq_true_eq] at h
    have := ih h.2
    simp only [mapTable, List.map_cons, List.filter_cons] at this ⊢
    split
    · simp only [risesFrom, Bool.and_eq_true, decide_eq_true_eq]; exact ⟨h.1, this⟩
    · exact risesFrom_mono (by omega) this

theorem tableWf_mapTable {d : α} {f : Nat → α → α} {t : Table α} (h : tableWf d t = true) :
    tableWf d (mapTable d f t) = true := by
  rw [tableWf_iff] at h ⊢
  exact ⟨risesFrom_mapTable h.1, fun kv hm => by simpa using (List.mem_filter.1 hm).2⟩

theorem lookup_mapTable_from {d : α} {lo : Nat} {f : Nat → α → α} {t : Table α} (h : risesFrom lo t = true)
    (hd : ∀ k, f k d = d) (k : Nat) : lookup d (mapTable d f t) k = f k (lookup d t k) := by
  induction t generalizing lo with
  | nil => simp [mapTable, lookup, hd]
  | cons x t ih =>
    simp only [risesFrom, Bool.and_eq_true, decide_eq_true_eq] at h
    have hi := ih h.2
    have hr := risesFrom_mapTable (d := d) (f := f) h.2
    simp only [mapTable, List.map_cons, List.filter_cons] at hi hr ⊢
    simp only [lookup]
    split
    · rename_i hne
      simp only [lookup]
      split
      · rename_i hk; rw [hk]
      · exact hi
    · rename_i heq
      simp only [bne_iff_ne, ne_eq, Decidable.not_not] at heq
      split
      · rename_i hk; subst hk; rw [heq]; exact lookup_of_below hr (by omega)
      · exact hi

theorem lookup_mapTable {d : α} {f : Nat → α → α} {t : Table α} (h : tableWf d t = true) (hd : ∀ k, f k d = d) (k : Nat) :
    lookup d (mapTable d f t) k = f k (lookup d t k) :=
  lookup_mapTable_from (tableWf_iff.1 h).1 hd k

omit [DecidableEq α] in
theorem mem_idsWhere_from {d : α} {lo : Nat} {p : Nat → α → Bool} {t : Table α} (h : risesFrom lo t = true)
    (hp : ∀ k, p k d = false) (k : Nat) : k ∈ idsWhere p t ↔ p k (lookup d t k) = true := by
  constructor
  · intro hk
    obtain ⟨kv, hm, rfl⟩ := List.mem_map.1 hk
    have := List.mem_filter.1 hm
    rw [(lookup_of_mem (d := d) h this.1).2]
    exact this.2
  · intro hk
    by_cases hl : lookup d t k = d
    · rw [hl, hp] at hk; cases hk
    · exact List.mem_map.2 ⟨_, List.mem_filter.2 ⟨mem_of_lookup hl, hk⟩, rfl⟩

theorem mem_idsWhere {d : α} {p : Nat → α → Bool} {t : Table α} (h : tableWf d t = true) (hp : ∀ k, p k d = false) (k : Nat) :
    k ∈ idsWhere p t ↔ p k (lookup d t k) = true :=
  mem_idsWhere_from (tableWf_iff.1 h).1 hp k

omit [DecidableEq α] in
/-- The ids found in a canonical table rise strictly. -/
theorem idsWhere_rises {lo : Nat} {p : Nat → α → Bool} {t : Table α} (h : risesFrom lo t = true) :
    (idsWhere p t).Pairwise (· < ·) ∧ ∀ k ∈ idsWhere p t, lo ≤ k := by
  induction t generalizing lo with
  | nil => exact ⟨List.Pairwise.nil, fun _ hk => nomatch hk⟩
  | cons kv t ih =>
    obtain ⟨k, v⟩ := kv
    simp only [risesFrom, Bool.and_eq_true, decide_eq_true_eq] at h
    have := ih h.2
    unfold idsWhere at this ⊢
    rw [List.filter_cons]
    split
    · rw [List.map_cons]
      refine ⟨List.Pairwise.cons (fun j hj => this.2 j hj) this.1, fun j hj => ?_⟩
      rcases List.mem_cons.1 hj with rfl | hj
      · exact h.1
      · exact Nat.le_trans h.1 (Nat.le_trans (Nat.le_succ _) (this.2 j hj))
    · exact ⟨this.1, fun j hj => Nat.le_trans h.1 (Nat.le_trans (Nat.le_succ _) (this.2 j hj))⟩

end Sys2Proof.Machine
end

