-- ==== Sys2Proof/Laws/Net.lean ====
section
/-! SUPPORT. What a read of an entry gives after a write of one, in canonical tables. -/

namespace Sys2Proof.Machine

variable {n : Net}

theorem Net.Canonical.setNode (h : n.Canonical) (k : Nat) (v : Node) : (n.setNode k v).Canonical :=
  { h with nodes := tableWf_store h.nodes }
theorem Net.Canonical.node_setNode (h : n.Canonical) (k j : Nat) (v : Node) :
    (n.setNode k v).node j = if j = k then v else n.node j := lookup_store h.nodes k j v
theorem Net.Canonical.node_setNode_same (h : n.Canonical) (k : Nat) (v : Node) : (n.setNode k v).node k = v :=
  lookup_store_same h.nodes k v
theorem Net.Canonical.node_setNode_other (h : n.Canonical) {k j : Nat} (hj : j ≠ k) (v : Node) :
    (n.setNode k v).node j = n.node j := lookup_store_other h.nodes hj v

theorem Net.Canonical.setPipe (h : n.Canonical) (k : Nat) (v : Pipe) : (n.setPipe k v).Canonical :=
  { h with pipes := tableWf_store h.pipes }
theorem Net.Canonical.pipe_setPipe (h : n.Canonical) (k j : Nat) (v : Pipe) :
    (n.setPipe k v).pipe j = if j = k then v else n.pipe j := lookup_store h.pipes k j v
theorem Net.Canonical.pipe_setPipe_same (h : n.Canonical) (k : Nat) (v : Pipe) : (n.setPipe k v).pipe k = v :=
  lookup_store_same h.pipes k v
theorem Net.Canonical.pipe_setPipe_other (h : n.Canonical) {k j : Nat} (hj : j ≠ k) (v : Pipe) :
    (n.setPipe k v).pipe j = n.pipe j := lookup_store_other h.pipes hj v

theorem Net.Canonical.setValve (h : n.Canonical) (k : Nat) (v : Valve) : (n.setValve k v).Canonical :=
  { h with valves := tableWf_store h.valves }
theorem Net.Canonical.valve_setValve (h : n.Canonical) (k j : Nat) (v : Valve) :
    (n.setValve k v).valve j = if j = k then v else n.valve j := lookup_store h.valves k j v
theorem Net.Canonical.valve_setValve_same (h : n.Canonical) (k : Nat) (v : Valve) : (n.setValve k v).valve k = v :=
  lookup_store_same h.valves k v
theorem Net.Canonical.valve_setValve_other (h : n.Canonical) {k j : Nat} (hj : j ≠ k) (v : Valve) :
    (n.setValve k v).valve j = n.valve j := lookup_store_other h.valves hj v

theorem Net.Canonical.setSensor (h : n.Canonical) (k : Nat) (v : Sensor) : (n.setSensor k v).Canonical :=
  { h with sensors := tableWf_store h.sensors }
theorem Net.Canonical.sensor_setSensor (h : n.Canonical) (k j : Nat) (v : Sensor) :
    (n.setSensor k v).sensor j = if j = k then v else n.sensor j := lookup_store h.sensors k j v
theorem Net.Canonical.sensor_setSensor_same (h : n.Canonical) (k : Nat) (v : Sensor) : (n.setSensor k v).sensor k = v :=
  lookup_store_same h.sensors k v
theorem Net.Canonical.sensor_setSensor_other (h : n.Canonical) {k j : Nat} (hj : j ≠ k) (v : Sensor) :
    (n.setSensor k v).sensor j = n.sensor j := lookup_store_other h.sensors hj v

theorem Net.Canonical.setCell (h : n.Canonical) (k : Nat) (v : Cell) : (n.setCell k v).Canonical :=
  { h with cells := tableWf_store h.cells }
theorem Net.Canonical.cell_setCell (h : n.Canonical) (k j : Nat) (v : Cell) :
    (n.setCell k v).cell j = if j = k then v else n.cell j := lookup_store h.cells k j v
theorem Net.Canonical.cell_setCell_same (h : n.Canonical) (k : Nat) (v : Cell) : (n.setCell k v).cell k = v :=
  lookup_store_same h.cells k v
theorem Net.Canonical.cell_setCell_other (h : n.Canonical) {k j : Nat} (hj : j ≠ k) (v : Cell) :
    (n.setCell k v).cell j = n.cell j := lookup_store_other h.cells hj v

theorem Net.Canonical.setIncident (h : n.Canonical) (k : Nat) (v : Incident) : (n.setIncident k v).Canonical :=
  { h with incidents := tableWf_store h.incidents }
theorem Net.Canonical.incident_setIncident (h : n.Canonical) (k j : Nat) (v : Incident) :
    (n.setIncident k v).incident j = if j = k then v else n.incident j := lookup_store h.incidents k j v
theorem Net.Canonical.incident_setIncident_same (h : n.Canonical) (k : Nat) (v : Incident) : (n.setIncident k v).incident k = v :=
  lookup_store_same h.incidents k v
theorem Net.Canonical.incident_setIncident_other (h : n.Canonical) {k j : Nat} (hj : j ≠ k) (v : Incident) :
    (n.setIncident k v).incident j = n.incident j := lookup_store_other h.incidents hj v

theorem Net.Canonical.setCause (h : n.Canonical) (k : Nat) (v : CauseRecord) : (n.setCause k v).Canonical :=
  { h with causes := tableWf_store h.causes }
theorem Net.Canonical.cause_setCause (h : n.Canonical) (k j : Nat) (v : CauseRecord) :
    (n.setCause k v).cause j = if j = k then v else n.cause j := lookup_store h.causes k j v
theorem Net.Canonical.cause_setCause_same (h : n.Canonical) (k : Nat) (v : CauseRecord) : (n.setCause k v).cause k = v :=
  lookup_store_same h.causes k v
theorem Net.Canonical.cause_setCause_other (h : n.Canonical) {k j : Nat} (hj : j ≠ k) (v : CauseRecord) :
    (n.setCause k v).cause j = n.cause j := lookup_store_other h.causes hj v

/-- The tables alone decide whether a net is canonical. -/
theorem Net.Canonical.congr (h : n.Canonical) {n' : Net} (h1 : n'.nodes = n.nodes) (h2 : n'.pipes = n.pipes)
    (h3 : n'.valves = n.valves) (h4 : n'.sensors = n.sensors) (h5 : n'.cells = n.cells)
    (h6 : n'.incidents = n.incidents) (h7 : n'.causes = n.causes) : n'.Canonical :=
  ⟨h1 ▸ h.nodes, h2 ▸ h.pipes, h3 ▸ h.valves, h4 ▸ h.sensors, h5 ▸ h.cells, h6 ▸ h.incidents, h7 ▸ h.causes⟩

theorem Net.Canonical.reset : Net.Canonical {} := ⟨rfl, rfl, rfl, rfl, rfl, rfl, rfl⟩

end Sys2Proof.Machine
end

