-- ==== Sys2Proof/Laws/Keeps.lean ====
section
/-! SUPPORT. What every function over the blocks keeps: canonical tables, at most twelve slots, and a walker that is idle only
while no job waits. Each function has one lemma, stated as the next link of a chain. -/

namespace Sys2Proof.Machine

/-- What holds of `n` of these three properties holds of `n'`. -/
structure Keeps (n n' : Net) : Prop where
  canonical : n.Canonical → n'.Canonical
  slots : n.slots.length ≤ Config.maxSlots → n'.slots.length ≤ Config.maxSlots
  working : n.Working → n'.Working

theorem Keeps.refl (n : Net) : Keeps n n := ⟨id, id, id⟩

theorem Keeps.trans {a b c : Net} (h : Keeps a b) (h' : Keeps b c) : Keeps a c :=
  ⟨fun x => h'.1 (h.1 x), fun x => h'.2 (h.2 x), fun x => h'.3 (h.3 x)⟩

/-- A fold keeps what each of its steps keeps. -/
theorem Keeps.foldl {α : Type} {f : Net → α → Net} (hf : ∀ {m n : Net} (a : α), Keeps m n → Keeps m (f n a)) {m n : Net}
    (h : Keeps m n) (l : List α) : Keeps m (l.foldl f n) := by
  induction l generalizing n with
  | nil => exact h
  | cons a l ih => exact ih (hf a h)

section

variable {m n : Net} (h : Keeps m n)
include h

/-- A change that leaves the tables, the slots, the jobs and the walker. -/
theorem Keeps.same {n' : Net} (h1 : n'.nodes = n.nodes) (h2 : n'.pipes = n.pipes) (h3 : n'.valves = n.valves)
    (h4 : n'.sensors = n.sensors) (h5 : n'.cells = n.cells) (h6 : n'.incidents = n.incidents) (h7 : n'.causes = n.causes)
    (h8 : n'.slots = n.slots) (h9 : n'.jobs = n.jobs) (h10 : n'.walker = n.walker) : Keeps m n' :=
  ⟨fun x => (h.1 x).congr h1 h2 h3 h4 h5 h6 h7, fun x => h8 ▸ h.2 x,
    fun x => by unfold Net.Working; rw [h9, h10]; exact h.3 x⟩

theorem Keeps.setNode (k : Nat) (v : Node) : Keeps m (n.setNode k v) := ⟨fun x => (h.1 x).setNode k v, h.2, h.3⟩
theorem Keeps.setPipe (k : Nat) (v : Pipe) : Keeps m (n.setPipe k v) := ⟨fun x => (h.1 x).setPipe k v, h.2, h.3⟩
theorem Keeps.setValve (k : Nat) (v : Valve) : Keeps m (n.setValve k v) := ⟨fun x => (h.1 x).setValve k v, h.2, h.3⟩
theorem Keeps.setSensor (k : Nat) (v : Sensor) : Keeps m (n.setSensor k v) := ⟨fun x => (h.1 x).setSensor k v, h.2, h.3⟩
theorem Keeps.setCell (k : Nat) (v : Cell) : Keeps m (n.setCell k v) := ⟨fun x => (h.1 x).setCell k v, h.2, h.3⟩
theorem Keeps.setIncident (k : Nat) (v : Incident) : Keeps m (n.setIncident k v) :=
  ⟨fun x => (h.1 x).setIncident k v, h.2, h.3⟩
theorem Keeps.setCause (k : Nat) (v : CauseRecord) : Keeps m (n.setCause k v) := ⟨fun x => (h.1 x).setCause k v, h.2, h.3⟩

theorem Keeps.modNode (k : Nat) (f : Node → Node) : Keeps m (modNode k f n) := h.setNode ..
theorem Keeps.modPipe (k : Nat) (f : Pipe → Pipe) : Keeps m (modPipe k f n) := h.setPipe ..
theorem Keeps.modValve (k : Nat) (f : Valve → Valve) : Keeps m (modValve k f n) := h.setValve ..
theorem Keeps.modSensor (k : Nat) (f : Sensor → Sensor) : Keeps m (modSensor k f n) := h.setSensor ..
theorem Keeps.modCell (k : Nat) (f : Cell → Cell) : Keeps m (modCell k f n) := h.setCell ..
theorem Keeps.modIncident (k : Nat) (f : Incident → Incident) : Keeps m (modIncident k f n) := h.setIncident ..
theorem Keeps.modFrame (i l : Nat) (f : Frame → Frame) : Keeps m (modFrame i l f n) := h.modIncident ..

/-- The tables of nodes and pipes changed entry by entry. -/
theorem Keeps.mapGround (f : Nat → Node → Node) (g : Nat → Pipe → Pipe) :
    Keeps m { n with nodes := mapTable Node.atReset f n.nodes, pipes := mapTable Pipe.atReset g n.pipes } :=
  ⟨fun x => { h.1 x with nodes := tableWf_mapTable (h.1 x).nodes, pipes := tableWf_mapTable (h.1 x).pipes }, h.2, h.3⟩

theorem Keeps.mapSensors (f : Nat → Sensor → Sensor) : Keeps m (mapSensors f n) :=
  ⟨fun x => { h.1 x with sensors := tableWf_mapTable (h.1 x).sensors }, h.2, h.3⟩
theorem Keeps.mapCells (f : Nat → Cell → Cell) : Keeps m (mapCells f n) :=
  ⟨fun x => { h.1 x with cells := tableWf_mapTable (h.1 x).cells }, h.2, h.3⟩

/-! ### Ops and flags -/

theorem Keeps.judgeAttn : Keeps m (judgeAttn n) := h.same rfl rfl rfl rfl rfl rfl rfl rfl rfl rfl
theorem Keeps.raise (e : Env) (c : Cause) (a b : Nat) : Keeps m (raise e c a b n) := h.setCause ..
theorem Keeps.errors (a : Nat) (l : LastError) : Keeps m { n with recordErrors := a, lastError := l } :=
  h.same rfl rfl rfl rfl rfl rfl rfl rfl rfl rfl
theorem Keeps.recordError (e : Env) (w : Window) (r : RecordReason) (l : LastError) : Keeps m (recordError e w r l n) :=
  (h.errors ..).raise ..
theorem Keeps.noteSensors (l : List Nat) : Keeps m (noteSensors l n) := h.same rfl rfl rfl rfl rfl rfl rfl rfl rfl rfl
theorem Keeps.noteIncident (i : Nat) : Keeps m (noteIncident i n) := by
  unfold Machine.noteIncident; split
  · exact h
  · exact h.same rfl rfl rfl rfl rfl rfl rfl rfl rfl rfl
theorem Keeps.noteValve (v : Nat) (b : Bool) : Keeps m (noteValve v b n) := by
  unfold Machine.noteValve; split
  · exact h
  · split <;> exact h.same rfl rfl rfl rfl rfl rfl rfl rfl rfl rfl
theorem Keeps.claimNode (i l k : Nat) : Keeps m (claimNode i l k n) := ((h.modNode ..).modFrame ..).noteSensors ..
theorem Keeps.claimPipe (i l k : Nat) : Keeps m (claimPipe i l k n) := ((h.modPipe ..).modFrame ..).noteSensors ..
theorem Keeps.clearOwners (p : Owner → Bool) : Keeps m (clearOwners p n) := (h.mapGround ..).noteSensors ..
theorem Keeps.reown (i j l : Nat) : Keeps m (reown i j l n) := h.mapGround ..

/-! ### Incidents that end -/

theorem Keeps.enterFree (e : Env) (i : Nat) : Keeps m (enterFree e i n) := ((h.modIncident ..).raise ..).noteIncident ..
theorem Keeps.enterFailed (e : Env) (i : Nat) (w : FailReason) : Keeps m (enterFailed e i w n) := by
  unfold Machine.enterFailed; split
  · exact h
  · exact ((h.modIncident ..).raise ..).noteIncident ..
theorem Keeps.countRelease (e : Env) (k : Nat) (p : ReleasePart) : Keeps m (countRelease e k p n) := by
  unfold Machine.countRelease; dsimp only; split
  · exact (h.modIncident ..).enterFree ..
  · exact h.modIncident ..
theorem Keeps.endReleaseOwner (e : Env) (v : Nat) (p : ReleasePart) : Keeps m (endReleaseOwner e v p n) := by
  unfold Machine.endReleaseOwner; split
  · exact h
  · exact (h.modValve ..).countRelease ..

/-! ### Strokes -/

theorem Keeps.queue (q : StrokeQueue) : Keeps m { n with queue := q } := h.same rfl rfl rfl rfl rfl rfl rfl rfl rfl rfl
theorem Keeps.leaveQueue (v : Nat) : Keeps m { n with queue := n.queue.without v, slots := n.slots.filter (· != v) } :=
  ⟨fun x => (h.1 x).congr rfl rfl rfl rfl rfl rfl rfl, fun x => Nat.le_trans (List.length_filter_le ..) (h.2 x), h.3⟩

omit h in
theorem grantUpTo_slots (e : Env) (k : Nat) (n : Net) (hs : n.slots.length ≤ Config.maxSlots) :
    (grantUpTo e k n).slots.length ≤ Config.maxSlots := by
  induction k generalizing n with
  | zero => exact hs
  | succ k ih =>
    unfold grantUpTo; split
    · split
      · exact hs
      · refine ih _ ?_
        unfold grant noteValve
        dsimp only
        split
        · simp only [modValve, setValve_slots, List.length_append, List.length_singleton]; omega
        · split <;> simp only [modValve, setValve_slots, List.length_append, List.length_singleton] <;> omega
    · exact hs

omit h in
theorem grant_keeps_but_slots {m n : Net} (e : Env) (v : Nat) (hc : m.Canonical → n.Canonical) (hw : m.Working → n.Working) :
    (m.Canonical → (grant e v n).Canonical) ∧ (m.Working → (grant e v n).Working) := by
  have : ∀ n' : Net, Keeps { n with queue := n.queue.without v, slots := n.slots ++ [v] } n' →
      (m.Canonical → n'.Canonical) ∧ (m.Working → n'.Working) := fun n' h' =>
    ⟨fun x => h'.1 ((hc x).congr rfl rfl rfl rfl rfl rfl rfl), fun x => h'.3 (hw x)⟩
  exact this _ (((Keeps.refl _).modValve ..).noteValve ..)

omit h in
theorem grantUpTo_keeps_but_slots {m n : Net} (e : Env) (k : Nat) (hc : m.Canonical → n.Canonical)
    (hw : m.Working → n.Working) :
    (m.Canonical → (grantUpTo e k n).Canonical) ∧ (m.Working → (grantUpTo e k n).Working) := by
  induction k generalizing n with
  | zero => exact ⟨hc, hw⟩
  | succ k ih =>
    unfold grantUpTo; split
    · split
      · exact ⟨hc, hw⟩
      · rename_i p v _
        have := grant_keeps_but_slots (m := m) (n := { n with passedOver := p }) e v
          (fun x => (hc x).congr rfl rfl rfl rfl rfl rfl rfl) hw
        exact ih this.1 this.2
    · exact ⟨hc, hw⟩

theorem Keeps.arbitrate (e : Env) : Keeps m (arbitrate e n) :=
  have h' := grantUpTo_keeps_but_slots e Config.maxSlots h.1 h.3
  ⟨h'.1, fun x => grantUpTo_slots e _ n (h.2 x), h'.2⟩

theorem Keeps.vacate (e : Env) (v : Nat) : Keeps m (vacate e v n) := by
  unfold Machine.vacate; dsimp only; split
  · exact (h.leaveQueue v).arbitrate e
  · exact h.leaveQueue v
theorem Keeps.joinQueue (e : Env) (v : Nat) (p : Purpose) : Keeps m (joinQueue e v p n) :=
  (((h.queue _).modValve ..).noteValve ..).arbitrate e
theorem Keeps.stopStroke (e : Env) (v : Nat) : Keeps m (stopStroke e v n) := ((h.modValve ..).noteValve ..).vacate ..
theorem Keeps.endTest (e : Env) (v : Nat) (r : TestResult) (l : Purpose) (f : FaultReason) (a : AbortCause) :
    Keeps m (endTest e v r l f a n) := (h.modValve ..).raise ..
theorem Keeps.abortTest (e : Env) (v : Nat) (x : Valve) (a : AbortCause) : Keeps m (abortTest e v x a n) := by
  unfold Machine.abortTest; split
  · exact h.endTest ..
  · exact h
theorem Keeps.handback (e : Env) (v : Nat) : Keeps m (handback e v n) := by
  have : ∀ n, Keeps m n → Keeps m (if agreesWithMemory e n v then
      Machine.modValve v (fun x => { x with control := .free, image := none }) n
      else Machine.raise e .handback v (n.valve v).motion.code
        (Machine.modValve v (fun x => { x with control := .handbackPending }.hold) n)) := fun n h => by
    split
    · exact h.modValve ..
    · exact (h.modValve ..).raise ..
  unfold Machine.handback; dsimp only
  refine this _ ?_
  split
  · exact h.stopStroke ..
  · exact h
theorem Keeps.holderGained (e : Env) (v : Nat) : Keeps m (holderGained e v n) := by
  unfold Machine.holderGained; dsimp only
  refine Keeps.endReleaseOwner ?_ ..
  split
  · exact h
  · split
    · exact ((h.modValve ..).stopStroke ..).abortTest ..
    · split
      · exact h.modValve ..
      · exact h.modValve ..
      · exact h
theorem Keeps.closeRequest (e : Env) (v : Nat) : Keeps m (closeRequest e v n) := by
  unfold Machine.closeRequest; dsimp only; split
  · exact h.joinQueue ..
  · exact h.joinQueue ..
  · exact h
  · exact (h.abortTest ..).joinQueue ..
  · exact ((h.stopStroke ..).abortTest ..).joinQueue ..
theorem Keeps.openRequest (e : Env) (v : Nat) : Keeps m (openRequest e v n) := by
  unfold Machine.openRequest; split
  · exact h.joinQueue ..
  · exact h.joinQueue ..
  · exact h
theorem Keeps.loseHolder (e : Env) (i v : Nat) : Keeps m (loseHolder e i v n) := by
  unfold Machine.loseHolder; dsimp only; split
  · exact (h.modValve ..).stopStroke ..
  · exact h.modValve ..
theorem Keeps.pickup (e : Env) (v : Nat) : Keeps m (pickup e v n) := by
  unfold Machine.pickup; dsimp only; split
  · exact (h.setValve ..).noteValve ..
  · exact h.setValve ..
theorem Keeps.faultStroke (e : Env) (v : Nat) (w : FaultReason) : Keeps m (faultStroke e v w n) := by
  have h' := (((h.modValve v (fun x => { x.still with
    motion := .fault, fault := w, health := if w = .noPickup then x.health else .seized })).raise e .valveFault v w.code).noteValve
      v true).vacate e v
  unfold Machine.faultStroke; dsimp only; split
  · exact (h'.endReleaseOwner ..).handback ..
  · exact (h'.endTest ..).handback ..
  · exact (h'.endTest ..).handback ..
  · exact h'
  · exact h'
theorem Keeps.startTestBack (e : Env) (v : Nat) : Keeps m (startTestBack e v n) := (h.modValve ..).noteValve ..
theorem Keeps.completeStroke (e : Env) (v : Nat) : Keeps m (completeStroke e v n) := by
  unfold Machine.completeStroke; dsimp only; split
  · exact ((h.setValve ..).noteValve ..).vacate ..
  · exact ((h.setValve ..).noteValve ..).vacate ..
  · exact ((((h.setValve ..).noteValve ..).vacate ..).endReleaseOwner ..).handback ..
  · exact h.startTestBack ..
  · exact ((((h.setValve ..).noteValve ..).vacate ..).endTest ..).handback ..
theorem Keeps.changePhase (e : Env) (v p : Nat) : Keeps m (changePhase e v p n) := by
  unfold Machine.changePhase; dsimp only; split
  · exact h.setValve ..
  · exact h
theorem Keeps.judgeReport (e : Env) (v : Nat) (r : Report) : Keeps m (judgeReport e v r n) := by
  unfold Machine.judgeReport; dsimp only; split
  · split
    · exact h
    · split
      · exact ((h.modValve ..).raise ..).noteValve ..
      · split
        · exact h.modValve ..
        · exact h
  · split
    · exact h.completeStroke ..
    · exact h
  · split
    · exact h.completeStroke ..
    · exact h.changePhase ..
  · split
    · exact h.completeStroke ..
    · split
      · exact h.faultStroke ..
      · split
        · exact h.faultStroke ..
        · exact (h.modValve ..).changePhase ..
  · split
    · split
      · exact h.modValve ..
      · exact h
    · split
      · exact (h.modValve ..).raise ..
      · exact h
theorem Keeps.takePosition (e : Env) (k : Nat) (w0 w1 : Word) : Keeps m (takePosition e k w0 w1 n) := by
  unfold Machine.takePosition; dsimp only; split
  · exact h.recordError ..
  · split
    · exact h.recordError ..
    · split
      · exact h.recordError ..
      · split
        · exact h.modValve ..
        · exact ((h.modValve ..).noteValve ..).judgeReport ..
theorem Keeps.processorWrite (e : Env) (v : Nat) : Keeps m (processorWrite e v n) := by
  unfold Machine.processorWrite; dsimp only; split
  · exact (((h.setValve ..).noteValve ..).vacate ..).abortTest ..
  · split
    · exact h.setValve ..
    · exact h
theorem Keeps.serviceOut (e : Env) (v : Nat) : Keeps m (serviceOut e v n) := by
  unfold Machine.serviceOut; dsimp only; split
  · refine Keeps.abortTest ?_ ..
    split
    · exact (((h.modValve ..).modValve ..).noteValve ..).vacate ..
    · exact ((h.modValve ..).stopStroke ..).handback ..
  · exact h.modValve ..
theorem Keeps.serviceIn (v : Nat) : Keeps m (serviceIn v n) := h.modValve ..
theorem Keeps.startTest (e : Env) (v d : Nat) : Keeps m (startTest e v d n) := (h.modValve ..).joinQueue ..

/-! ### Sensors -/

theorem Keeps.takeSample (e : Env) (k : Nat) (w0 w1 : Word) : Keeps m (takeSample e k w0 w1 n) := by
  unfold Machine.takeSample; dsimp only; split
  · exact h.recordError ..
  · split
    · exact h.recordError ..
    · split
      · exact h.same rfl rfl rfl rfl rfl rfl rfl rfl rfl rfl
      · split
        · exact h.modSensor ..
        · split
          · exact h.setSensor ..
          · split
            · exact h.setSensor ..
            · split
              · exact h.setSensor ..
              · exact (h.setSensor ..).noteSensors ..
theorem Keeps.loseSensor (e : Env) (k : Nat) : Keeps m (loseSensor e k n) := by
  unfold Machine.loseSensor; dsimp only; split
  · exact ((h.setSensor ..).raise ..).noteSensors ..
  · exact h
theorem Keeps.tripSensor (e : Env) (k : Nat) : Keeps m (tripSensor e k n) := by
  unfold Machine.tripSensor; dsimp only; split
  · exact (h.setSensor ..).noteSensors ..
  · exact h
theorem Keeps.clearLatches (k : Nat) : Keeps m (clearLatches k n) := h.mapSensors ..
theorem Keeps.rebaseline (p : Sensor → Bool) : Keeps m (rebaseline p n) := (h.mapSensors ..).noteSensors ..

/-! ### Jobs -/

theorem Keeps.setMarker (j : Job) (k : Marker) : Keeps m (setMarker j k n) := by
  cases j <;> dsimp only [Machine.setMarker]
  · exact h.modIncident ..
  · exact h.modIncident ..
  · exact h.same rfl rfl rfl rfl rfl rfl rfl rfl rfl rfl
  · exact h.same rfl rfl rfl rfl rfl rfl rfl rfl rfl rfl
  · exact h
theorem Keeps.pushFrame (e : Env) (i l : Nat) : Keeps m (pushFrame e i l n) := (h.modIncident ..).raise ..

omit h in
/-- Changes of jobs and walker that leave the walker busy or the queue empty. -/
theorem Keeps.work {m n n' : Net} (h : Keeps m n) (hc : n.Canonical → n'.Canonical) (hs : n'.slots = n.slots)
    (hw : n'.Working) : Keeps m n' :=
  ⟨fun x => hc (h.1 x), fun x => hs ▸ h.2 x, fun _ => hw⟩

theorem Keeps.startJob (e : Env) (j : Job) : Keeps m (startJob e j n) := by
  have hw : Keeps m { n with walker := some ⟨j, false⟩ } :=
    h.work (fun x => x.congr rfl rfl rfl rfl rfl rfl rfl) rfl (fun x => by cases x)
  unfold Machine.startJob; dsimp only; split
  · split
    · exact hw.setMarker ..
    · exact (hw.setMarker ..).pushFrame ..
  · exact hw.setMarker ..

omit h in
/-- What starting a job does, apart from the jobs that wait. -/
theorem startJob_working (e : Env) (j : Job) (n : Net) : (startJob e j n).Working := by
  intro hw; exfalso
  unfold startJob at hw
  cases j <;> dsimp only [setMarker] at hw
  · split at hw <;> simp [modIncident, pushFrame, raise] at hw
  all_goals simp [modIncident] at hw

omit h in
theorem startFrom_keeps (e : Env) (js : List Job) (n : Net) :
    (n.Canonical → (startFrom e js n).Canonical) ∧ ((startFrom e js n).slots = n.slots) ∧ (startFrom e js n).Working := by
  induction js generalizing n with
  | nil => exact ⟨fun x => x.congr rfl rfl rfl rfl rfl rfl rfl, rfl, fun _ => rfl⟩
  | cons j js ih =>
    unfold startFrom; split
    · refine ⟨fun x => (ih _).1 (((Keeps.refl n).setMarker j .none).1 x), ?_, (ih _).2.2⟩
      rw [(ih _).2.1]; cases j <;> rfl
    · refine ⟨fun x => ((Keeps.refl _).startJob e j).1 (x.congr rfl rfl rfl rfl rfl rfl rfl), ?_, startJob_working e j _⟩
      unfold startJob
      cases j <;> dsimp only [setMarker]
      · split <;> rfl
      all_goals rfl

theorem Keeps.startFrom (e : Env) (js : List Job) : Keeps m (startFrom e js n) :=
  h.work (startFrom_keeps e js n).1 (startFrom_keeps e js n).2.1 (startFrom_keeps e js n).2.2

omit h in
theorem startJobs_working (e : Env) (n : Net) : (startJobs e n).Working := by
  unfold startJobs; split
  · intro hw; simp [hw] at *
  · exact (startFrom_keeps ..).2.2

omit h in
/-- Jobs started after any change of the jobs and the walker. -/
theorem Keeps.startJobs_after (e : Env) {m n n' : Net} (h : Keeps m n) (hc : n.Canonical → n'.Canonical)
    (hs : n'.slots = n.slots) : Keeps m (startJobs e n') := by
  refine h.work ?_ ?_ (startJobs_working e n')
  · intro x; unfold startJobs; split
    · exact hc x
    · exact (startFrom_keeps ..).1 (hc x)
  · unfold startJobs; split
    · exact hs
    · rw [(startFrom_keeps ..).2.1]; exact hs

theorem Keeps.startJobs (e : Env) : Keeps m (startJobs e n) := h.startJobs_after e id rfl
theorem Keeps.queueJob (e : Env) (j : Job) : Keeps m (queueJob e j n) := by
  refine h.startJobs_after e ?_ ?_
  · exact fun x => ((Keeps.refl _).setMarker ..).1 (x.congr rfl rfl rfl rfl rfl rfl rfl)
  · cases j <;> rfl
theorem Keeps.dropWaiting (i : Nat) : Keeps m (dropWaiting i n) :=
  ⟨fun x => (h.1 x).congr rfl rfl rfl rfl rfl rfl rfl, h.2,
    fun x hw => by simp only [Machine.dropWaiting]; rw [h.3 x hw]; rfl⟩
theorem Keeps.abandonRunning (i : Nat) : Keeps m (abandonRunning i n) :=
  ⟨fun x => (h.1 x).congr rfl rfl rfl rfl rfl rfl rfl, h.2,
    fun x hw => h.3 x (by simpa [Machine.abandonRunning] using hw)⟩
theorem Keeps.queueCheck (e : Env) (i : Nat) : Keeps m (queueCheck e i n) := by
  unfold Machine.queueCheck; dsimp only; split
  · exact h.queueJob ..
  · exact h
theorem Keeps.queueChecks (e : Env) : Keeps m (queueChecks e n) :=
  Keeps.foldl (fun a h => h.queueCheck e a) h incidentIds
theorem Keeps.finishJob (e : Env) : Keeps m (finishJob e n) := by
  have h' := h.queueChecks e
  unfold Machine.finishJob
  generalize Machine.queueChecks e n = q at h' ⊢
  exact h'.startJobs_after e (fun x => x.congr rfl rfl rfl rfl rfl rfl rfl) rfl
theorem Keeps.countCompleted : Keeps m (countCompleted n) := h.same rfl rfl rfl rfl rfl rfl rfl rfl rfl rfl
theorem Keeps.completeAbandoned (e : Env) : Keeps m (completeAbandoned e n) := by
  unfold Machine.completeAbandoned; split
  · split
    · exact h.startJobs_after e (fun x => x.congr rfl rfl rfl rfl rfl rfl rfl) rfl
    · exact h
  · exact h

/-! ### Incidents -/

theorem Keeps.openIncident (e : Env) (i : Nat) (o : Opening) : Keeps m (openIncident e i o n) :=
  (((h.modIncident ..).claimNode ..).queueJob ..).raise ..
theorem Keeps.judgeIsolation (e : Env) (i : Nat) : Keeps m (judgeIsolation e i n) := by
  unfold Machine.judgeIsolation; split
  · exact ((h.modIncident ..).raise ..).noteIncident ..
  · exact h
theorem Keeps.enterClosing (e : Env) (i : Nat) : Keeps m (enterClosing e i n) :=
  Keeps.judgeIsolation (Keeps.foldl (fun v h => h.closeRequest e v) ((h.modIncident ..).noteIncident ..) _) e i
theorem Keeps.enterHeld (e : Env) (i : Nat) (w : HoldReason) : Keeps m (enterHeld e i w n) :=
  ((h.modIncident ..).raise ..).noteIncident ..
theorem Keeps.applySupply (e : Env) (i : Nat) (cut : List Nat) : Keeps m (applySupply e i cut n) := by
  unfold Machine.applySupply; dsimp only; split
  · exact (h.modIncident ..).enterHeld ..
  · split
    · exact (h.modIncident ..).enterClosing ..
    · exact (h.modIncident ..).enterHeld ..
theorem Keeps.expireHold (e : Env) (i : Nat) : Keeps m (expireHold e i n) := by
  unfold Machine.expireHold; dsimp only; split
  · exact h.enterClosing ..
  · exact h
theorem Keeps.recordFault (e : Env) (i v : Nat) : Keeps m (recordFault e i v n) := by
  unfold Machine.recordFault; dsimp only; split
  · exact h
  · split
    · exact h
    · split
      · exact h.modIncident ..
      · split
        · exact (h.modIncident ..).enterFailed ..
        · exact (h.modIncident ..).modIncident ..
theorem Keeps.takeClosingNotice (e : Env) (i v : Nat) : Keeps m (takeClosingNotice e i v n) := by
  have h' : ∀ b : Bool, Keeps m (if b then Machine.closeRequest e v n else n) := fun b => by
    cases b
    · exact h
    · exact h.closeRequest ..
  exact (h' _).judgeIsolation ..
theorem Keeps.takeValveNotice (e : Env) (a : ValveNotice) (i : Nat) : Keeps m (takeValveNotice e a i n) := by
  unfold Machine.takeValveNotice; split
  · exact h.recordFault ..
  · split
    · exact h.takeClosingNotice ..
    · exact h
theorem Keeps.escalate (e : Env) (i : Nat) : Keeps m (escalate e i n) := by
  unfold Machine.escalate; dsimp only; split
  · exact h
  · split
    · exact h.enterFailed ..
    · exact ((h.modIncident ..).queueJob ..).noteIncident ..
theorem Keeps.letGo (e : Env) (o : Option Nat) (v : Nat) : Keeps m (letGo e o v n) := by
  unfold Machine.letGo; split
  · exact (h.modValve ..).openRequest ..
  · exact h.handback ..
theorem Keeps.loseHolders (e : Env) (i : Nat) (vs : List Nat) : Keeps m (loseHolders e i vs n) :=
  Keeps.foldl (fun v h => h.loseHolder e i v) h _
theorem Keeps.dissolve (e : Env) (i : Nat) : Keeps m (dissolve e i n) :=
  ((((h.dropWaiting ..).abandonRunning ..).modIncident ..).clearOwners ..).loseHolders ..
theorem Keeps.releaseIncident (e : Env) (i : Nat) : Keeps m (releaseIncident e i n) := by
  have h' := ((Keeps.foldl (fun v h => h.letGo e (some i) v) (h.dissolve e i)
    (unheldValves (Machine.dissolve e i n) ((n.incident i).boundary.map Boundary.valve))).modIncident i (fun r => { r with
      reopen := releaseCount e i n, tally := {}, frames := [], depth := 0, state := .releasing })).noteIncident i
  unfold Machine.releaseIncident; dsimp only; split
  · exact h'.enterFree ..
  · exact h'
theorem Keeps.retractFrame (e : Env) (i : Nat) (f : Frame) : Keeps m (retractFrame e i f n) :=
  ((((Keeps.foldl (fun v h => h.letGo e none v) (h.loseHolders e i _) _).clearOwners ..).modIncident ..).modIncident
    ..).raise ..

/-! ### Cells -/

theorem Keeps.recompute (e : Env) (k : Nat) : Keeps m (recompute e k n) := by
  unfold Machine.recompute; dsimp only; split
  · exact h
  · exact h.setCell ..
theorem Keeps.rescore (k : Nat) : Keeps m (rescore k n) := h.modCell ..
theorem Keeps.reevaluate (e : Env) : Keeps m (reevaluate e n) := by
  unfold Machine.reevaluate; dsimp only
  refine Keeps.foldl (fun k h => (h.recompute e k).rescore k) ?_ _
  have h' := Keeps.foldl (fun k h => h.modCell k Cell.resume) (Keeps.foldl (fun k h => h.modCell k Cell.suspend) h
    (idsWhere (fun k c => c.tag = .adopted && c.active && suspensionHolds n k) n.cells))
    (idsWhere (fun k c => c.tag = .adopted && c.state = .suspended && !suspensionHolds n k) n.cells)
  split
  · exact h'
  · exact h'.rebaseline ..
theorem Keeps.locate (e : Env) (k : Nat) : Keeps m (locate e k n) := by
  unfold Machine.locate; dsimp only; split
  · exact ((h.setCell ..).rebaseline ..).rescore ..
  · split
    · exact (h.setCell ..).raise ..
    · exact ((h.setCell ..).openIncident ..).reevaluate ..
theorem Keeps.evaluate (e : Env) (k : Nat) : Keeps m (evaluate e k n) := by
  unfold Machine.evaluate; dsimp only; split
  · exact (h.rescore ..).locate ..
  · exact h.rescore ..
theorem Keeps.sweep (e : Env) : Keeps m (sweep e n) := by
  refine Keeps.foldl (fun k h => ?_) h _
  split
  · exact h.locate ..
  · exact h
theorem Keeps.takeIncidentNotice (e : Env) (b : Bool) : Keeps m (takeIncidentNotice e b n) := by
  unfold Machine.takeIncidentNotice; split
  · exact (h.reevaluate ..).sweep ..
  · exact h.reevaluate ..
theorem Keeps.takeCell (e : Env) (s k : Nat) : Keeps m (takeCell e s k n) := by
  unfold Machine.takeCell
  refine Keeps.evaluate ?_ ..
  split
  · exact h.recompute ..
  · exact h
theorem Keeps.showSensor (s : Nat) : Keeps m (showSensor s n) := h.modSensor ..
theorem Keeps.takeSensorNotice (e : Env) (s : Nat) : Keeps m (takeSensorNotice e s n) :=
  Keeps.foldl (fun k h => h.takeCell e s k) (h.showSensor s) _
theorem Keeps.tripCell (e : Env) (k : Nat) : Keeps m (tripCell e k n) := by
  unfold Machine.tripCell; dsimp only; split
  · exact (h.setCell ..).evaluate ..
  · exact h
theorem Keeps.changeDemand (e : Env) (k : Nat) (v : Int) : Keeps m (changeDemand e k v n) :=
  ((h.modCell ..).recompute ..).evaluate ..

/-! ### Settling -/

theorem Keeps.agenda (a : Agenda) : Keeps m { n with agenda := a } := h.same rfl rfl rfl rfl rfl rfl rfl rfl rfl rfl
theorem Keeps.giveValveNotice (e : Env) (a : ValveNotice) : Keeps m (giveValveNotice e a n) :=
  Keeps.foldl (fun i h => h.takeValveNotice e a i) h _
theorem Keeps.drainValves (e : Env) (k : Nat) : Keeps m (drainValves e k n) := by
  induction k generalizing n with
  | zero => exact h
  | succ k ih =>
    unfold Machine.drainValves; split
    · exact h
    · exact ih ((h.agenda _).giveValveNotice ..)
theorem Keeps.judgeEscalations (e : Env) : Keeps m (judgeEscalations e n) := Keeps.foldl (fun i h => h.escalate e i) h _
theorem Keeps.drainIncidents (e : Env) : Keeps m (drainIncidents e n) :=
  Keeps.foldl (fun b h => h.takeIncidentNotice e b) (h.agenda _) _
theorem Keeps.drainSensors (e : Env) (k : Nat) : Keeps m (drainSensors e k n) := by
  induction k generalizing n with
  | zero => exact h
  | succ k ih =>
    unfold Machine.drainSensors; split
    · exact h
    · exact ih (Keeps.foldl (fun s h => h.takeSensorNotice e s) (h.agenda _) _)
theorem Keeps.settle (e : Env) : Keeps m (settle e n) := by
  unfold Machine.settle
  exact ((((h.drainValves e _).judgeEscalations e).drainIncidents e).drainSensors e _ |>.agenda {}).judgeAttn

/-! ### Walks -/

theorem Keeps.foldGround (e : Env) (i j : Nat) : Keeps m (foldGround e i j n) := by
  unfold Machine.foldGround; dsimp only; split
  · exact ((h.reown ..).modFrame ..).enterFailed ..
  · exact (h.reown ..).modFrame ..
theorem Keeps.foldOut (e : Env) (i v : Nat) : Keeps m (foldOut e i v n) := by
  unfold Machine.foldOut; dsimp only; split
  · exact (h.loseHolder ..).handback ..
  · exact h.loseHolder ..
theorem Keeps.foldValve (e : Env) (i j : Nat) (b : Boundary) : Keeps m (foldValve e i j b n) := by
  unfold Machine.foldValve; dsimp only; split
  · exact h.modValve ..
  · split
    · exact (h.enterFailed ..).foldOut ..
    · exact (h.modFrame ..).modValve ..
theorem Keeps.foldCause (e : Env) (j v : Nat) : Keeps m (foldCause e j v n) := by
  unfold Machine.foldCause; dsimp only; split
  · exact h.modIncident ..
  · split
    · exact (h.modIncident ..).enterFailed ..
    · exact (h.modIncident ..).modIncident ..
theorem Keeps.foldPlan (i j : Nat) : Keeps m (foldPlan i j n) := (h.modIncident ..).noteIncident ..
theorem Keeps.freeMerged (e : Env) (i j : Nat) : Keeps m (freeMerged e i j n) :=
  (((h.dropWaiting ..).modIncident ..).raise ..).noteIncident ..
theorem Keeps.foldIncident (e : Env) (i j : Nat) : Keeps m (foldIncident e i j n) :=
  ((Keeps.foldl (fun v h => h.foldCause e j v) (Keeps.foldl (fun b h => h.foldValve e i j b) (h.foldGround ..) _) _).foldPlan
    ..).freeMerged ..
theorem Keeps.applyWalk (s : Nat) : Keeps m (applyWalk s n) := by
  unfold Machine.applyWalk; dsimp only; split
  · exact h
  · split
    · exact h.modIncident ..
    · exact (h.modIncident ..).noteIncident ..
theorem Keeps.orderNotices (s : Nat) (l : List Nat) : Keeps m (orderNotices s l n) := h.agenda _

end

section

variable {m : Net} {w : Walk} (h : Keeps m w.net)
include h

theorem Keeps.walkStop (e : Env) (f : FailReason) : Keeps m (w.stop e f).net := h.enterFailed ..
theorem Keeps.walkMerge (e : Env) (j : Nat) : Keeps m (w.merge e j).net := h.foldIncident ..
theorem Keeps.walkClaim (x : Nat) : Keeps m (w.claim x).net := h.claimNode ..
theorem Keeps.walkClaimPipe (p : Nat) : Keeps m (w.claimPipe p).net := h.claimPipe ..
theorem Keeps.walkArrive (e : Env) (x : Nat) : Keeps m (w.arrive e x).net := by
  unfold Walk.arrive; split
  · exact h.walkStop ..
  · exact h
  · exact h
  · exact h.walkMerge ..
  · split
    · exact h.walkStop ..
    · exact h.walkClaim ..
theorem Keeps.walkSeed (e : Env) (x : Nat) : Keeps m (w.seed e x).net := by
  unfold Walk.seed; split
  · exact h
  · split
    · exact h
    · exact h.walkArrive ..
theorem Keeps.walkTakePipe (e : Env) (p x : Nat) : Keeps m (w.takePipe e p x).net := by
  unfold Walk.takePipe; split
  · split
    · exact h
    · exact h.walkMerge ..
  · split
    · exact h.walkStop ..
    · exact h
    · split
      · exact h.walkStop ..
      · exact h.walkClaimPipe ..
    · split
      · exact h.walkStop ..
      · exact (h.walkClaimPipe ..).walkMerge ..
    · split
      · exact h.walkStop ..
      · exact (h.walkClaimPipe ..).walkClaim ..
theorem Keeps.walkHold (e : Env) (v : Nat) : Keeps m (w.hold e v).net := ((h.modFrame ..).modValve ..).holderGained ..
theorem Keeps.walkTakeValve (e : Env) (v x : Nat) : Keeps m (w.takeValve e v x).net := by
  unfold Walk.takeValve; split
  · exact h
  · split
    · split
      · exact h.walkStop ..
      · exact h.walkHold ..
    · exact h.walkArrive ..
theorem Keeps.walkTakeEdge (e : Env) (d : Edge) : Keeps m (w.takeEdge e d).net := by
  unfold Walk.takeEdge; split
  · exact h
  · split
    · exact h.walkTakePipe ..
    · exact h.walkTakeValve ..

end

/-- A fold over a walk keeps what each of its steps keeps. -/
theorem Keeps.walkFoldl {α : Type} {f : Walk → α → Walk} (hf : ∀ {m : Net} {w : Walk} (a : α), Keeps m w.net → Keeps m (f w a).net)
    {m : Net} {w : Walk} (h : Keeps m w.net) (l : List α) : Keeps m (l.foldl f w).net := by
  induction l generalizing w with
  | nil => exact h
  | cons a l ih => exact ih (hf a h)

theorem Keeps.walkSpread {m : Net} {w : Walk} (h : Keeps m w.net) (e : Env) (k : Nat) : Keeps m (w.spread e k).net := by
  induction k generalizing w with
  | zero => exact h
  | succ k ih =>
    unfold Walk.spread; split
    · exact h
    · split
      · exact h
      · rename_i x xs _ _
        exact ih (Keeps.walkFoldl (fun d h => h.walkTakeEdge e d) (w := { w with frontier := xs }) h _)

section

variable {m n : Net} (h : Keeps m n)
include h

theorem Keeps.runWalk (e : Env) (i l : Nat) : Keeps m (runWalk e i l n).net :=
  Keeps.walkSpread (Keeps.walkFoldl (fun x h => h.walkSeed e x) (w := ⟨n, i, l, [], [], false⟩) h _) e _
theorem Keeps.completeBoundary (e : Env) (i l : Nat) : Keeps m (completeBoundary e i l n) :=
  (((((h.setMarker ..).runWalk e i l).applyWalk ..).orderNotices ..).countCompleted).finishJob e

/-! ### The supply check -/

theorem Keeps.supplyResult (e : Env) (i : Nat) (g : BitVec 16) : Keeps m (supplyResult e i g n) := by
  unfold Machine.supplyResult; dsimp only; split
  · exact h.same rfl rfl rfl rfl rfl rfl rfl rfl rfl rfl
  · split
    · exact (h.applySupply ..).countCompleted
    · exact h
theorem Keeps.completeSupply (e : Env) (i : Nat) (g : BitVec 16) : Keeps m (completeSupply e i g n) :=
  ((h.setMarker ..).supplyResult ..).finishJob e

/-! ### The image -/

theorem Keeps.stageRecord (k : ImageKind) (r : ImageRecord) : Keeps m (stageRecord k r n) := by
  cases k <;> dsimp only [Machine.stageRecord]
  · exact h.same rfl rfl rfl rfl rfl rfl rfl rfl rfl rfl
  · exact h.modNode ..
  · exact h.modPipe ..
  · exact h.modValve ..
  · exact h.modSensor ..
  · exact h.modCell ..
  · exact h.modCell ..
theorem Keeps.deleteRecord (k : ImageKind) (r : ImageRecord) : Keeps m (deleteRecord k r n) := by
  cases k <;> dsimp only [Machine.deleteRecord]
  · exact h.same rfl rfl rfl rfl rfl rfl rfl rfl rfl rfl
  · exact h.setNode ..
  · exact h.setPipe ..
  · exact h.setValve ..
  · exact h.setSensor ..
  · exact h.setCell ..
  · exact h.modCell ..
theorem Keeps.takeImageRecord (e : Env) (k : Nat) (w0 w1 w2 w3 : Word) : Keeps m (takeImageRecord e k w0 w1 w2 w3 n) := by
  unfold Machine.takeImageRecord; dsimp only; split
  · split
    · exact h.deleteRecord ..
    · exact h.stageRecord ..
  · exact h.recordError ..
  · exact h
theorem Keeps.adoptTopologyHalf : Keeps m (adoptTopologyHalf n) := by
  unfold Machine.adoptTopologyHalf
  refine ⟨fun x => ?_, h.2, h.3⟩
  have c := h.1 x
  constructor <;> dsimp only
  · exact tableWf_mapTable c.nodes
  · exact tableWf_mapTable c.pipes
  · exact tableWf_mapTable c.valves
  · exact c.sensors
  · exact c.cells
  · exact c.incidents
  · exact c.causes
theorem Keeps.adoptSensorsHalf : Keeps m (adoptSensorsHalf n) := by
  unfold Machine.adoptSensorsHalf
  refine ⟨fun x => ?_, h.2, h.3⟩
  have c := h.1 x
  constructor <;> dsimp only
  · exact c.nodes
  · exact c.pipes
  · exact c.valves
  · exact tableWf_mapTable c.sensors
  · exact tableWf_mapTable c.cells
  · exact c.incidents
  · exact c.causes
theorem Keeps.unadopt : Keeps m (unadopt n) := by
  unfold Machine.unadopt
  refine ⟨fun x => ?_, h.2, h.3⟩
  have c := h.1 x
  constructor <;> dsimp only
  · exact tableWf_mapTable c.nodes
  · exact tableWf_mapTable c.pipes
  · exact tableWf_mapTable c.valves
  · exact tableWf_mapTable c.sensors
  · exact tableWf_mapTable c.cells
  · exact c.incidents
  · exact c.causes
theorem Keeps.queueCross (e : Env) : Keeps m (queueCross e n) := by
  unfold Machine.queueCross; split
  · exact h.queueJob ..
  · exact h
theorem Keeps.goLive (e : Env) : Keeps m (goLive e n) :=
  Keeps.mapCells (Keeps.mapSensors (h.same (n' := { n with live := true }) rfl rfl rfl rfl rfl rfl rfl rfl rfl rfl) _) _
theorem Keeps.completeTopology (e : Env) : Keeps m (completeTopology e n) := by
  have h' := (h.same (n' := { n with topologyResult := resultOf (topologyFailure n) e.time })
    rfl rfl rfl rfl rfl rfl rfl rfl rfl rfl).setMarker .adoptTopology .none
  unfold Machine.completeTopology; dsimp only
  refine (Keeps.countCompleted (Keeps.raise ?_ ..)).finishJob e
  split
  · exact (h'.adoptTopologyHalf).queueCross e
  · exact h'
theorem Keeps.completeSensors (e : Env) : Keeps m (completeSensors e n) := by
  have h' := (h.same (n' := { n with sensorsResult := resultOf (sensorsFailure n) e.time })
    rfl rfl rfl rfl rfl rfl rfl rfl rfl rfl).setMarker .adoptSensors .none
  unfold Machine.completeSensors; dsimp only
  refine (Keeps.countCompleted (Keeps.raise ?_ ..)).finishJob e
  split
  · exact (h'.adoptSensorsHalf).queueCross e
  · exact h'
theorem Keeps.completeCross (e : Env) : Keeps m (completeCross e n) := by
  have h' := h.same (n' := { n with crossResult := resultOf (crossFailure n) e.time })
    rfl rfl rfl rfl rfl rfl rfl rfl rfl rfl
  unfold Machine.completeCross; dsimp only
  refine (Keeps.countCompleted (Keeps.raise ?_ ..)).finishJob e
  split
  · exact h'.goLive e
  · exact h'.unadopt
theorem Keeps.reopen : Keeps m (reopen n) := by
  unfold Machine.reopen; split
  · exact Keeps.mapCells (Keeps.mapSensors h.unadopt _) _
  · exact h.unadopt

/-! ### Requests -/

theorem Keeps.clearCauses (w : Word) : Keeps m (clearCauses w n) := by
  unfold Machine.clearCauses
  refine ⟨fun x => ?_, h.2, h.3⟩
  have c := h.1 x
  constructor <;> dsimp only
  · exact c.nodes
  · exact c.pipes
  · exact c.valves
  · exact c.sensors
  · exact c.cells
  · exact c.incidents
  · exact tableWf_mapTable c.causes

theorem Keeps.requestAdoptTopology (e : Env) : Keeps m (requestAdoptTopology e n).net := by
  unfold Machine.requestAdoptTopology; split
  · exact h
  · split
    · exact h
    · exact h.queueJob ..
theorem Keeps.requestAdoptSensors (e : Env) : Keeps m (requestAdoptSensors e n).net := by
  unfold Machine.requestAdoptSensors; split
  · exact h
  · split
    · exact h
    · exact h.queueJob ..
theorem Keeps.requestReopenImage : Keeps m (requestReopenImage n).net := by
  unfold Machine.requestReopenImage; split
  · exact h
  · split
    · exact h
    · split
      · exact h
      · exact h.reopen
theorem Keeps.requestIsolateNode (e : Env) (k : Nat) : Keeps m (requestIsolateNode e k n).net := by
  unfold Machine.requestIsolateNode; split
  · exact h
  · split
    · exact h
    · split
      · exact h
      · split
        · exact h
        · exact (h.openIncident ..).noteIncident ..
theorem Keeps.requestConfirm (e : Env) (k : Nat) : Keeps m (requestConfirm e k n).net := by
  unfold Machine.requestConfirm; split
  · exact h
  · split
    · exact h
    · exact h.enterClosing ..
theorem Keeps.requestRelease (e : Env) (k : Nat) : Keeps m (requestRelease e k n).net := by
  unfold Machine.requestRelease; split
  · exact h
  · split
    · exact h
    · exact h.releaseIncident ..
theorem Keeps.requestRetract (e : Env) (k : Nat) : Keeps m (requestRetract e k n).net := by
  unfold Machine.requestRetract; dsimp only; split
  · exact h
  · split
    · exact h
    · split
      · exact h
      · split
        · exact h
        · split
          · exact h
          · exact h.retractFrame ..
theorem Keeps.requestTestValve (e : Env) (k d : Nat) : Keeps m (requestTestValve e k d n).net := by
  unfold Machine.requestTestValve; dsimp only; repeat' split
  all_goals first | exact h | exact h.startTest ..
theorem Keeps.requestValveService (e : Env) (k d : Nat) : Keeps m (requestValveService e k d n).net := by
  unfold Machine.requestValveService; dsimp only; split
  · exact h
  · split
    · exact h
    · split
      · exact h
      · dsimp only [accept]; split
        · exact h.serviceOut ..
        · exact h.serviceIn ..
theorem Keeps.requestSetDemand (e : Env) (k : Nat) (v : Int) : Keeps m (requestSetDemand e k v n).net := by
  unfold Machine.requestSetDemand; split
  · exact h
  · split
    · exact h
    · exact h.changeDemand ..
theorem Keeps.requestRebaseline (k : Nat) : Keeps m (requestRebaseline k n).net := by
  unfold Machine.requestRebaseline; split
  · exact h.rebaseline ..
  · split
    · exact h
    · exact h.rebaseline ..
theorem Keeps.requestSetCause (k l v : Nat) : Keeps m (requestSetCause k l v n).net := by
  unfold Machine.requestSetCause; split
  · exact h
  · exact h.setCause ..
theorem Keeps.handRequest (e : Env) (q : Request) (w0 w1 w2 : Word) : Keeps m (handRequest e q w0 w1 w2 n).net := by
  cases q <;> dsimp only [Machine.handRequest]
  · exact h.requestAdoptTopology ..
  · exact h.requestAdoptSensors ..
  · exact h.requestReopenImage ..
  · exact h.requestIsolateNode ..
  · exact h.requestConfirm ..
  · exact h.requestRelease ..
  · exact h.requestRetract ..
  · exact h.requestTestValve ..
  · exact h.requestValveService ..
  · exact h.requestSetDemand ..
  · exact h.requestRebaseline ..
  · exact h.requestSetCause ..
  · exact h.clearCauses ..
theorem Keeps.judgeControl (e : Env) (k : Nat) (w0 w1 w2 : Word) : Keeps m (judgeControl e k w0 w1 w2 n).net := by
  unfold Machine.judgeControl; split
  · exact h
  · split
    · exact h
    · exact h.handRequest ..

/-! ### Expiries and completions -/

theorem Keeps.expirePickup (e : Env) (v : Nat) : Keeps m (expirePickup e v n) := by
  unfold Machine.expirePickup; split
  · exact h.faultStroke ..
  · exact h
theorem Keeps.expireProgress (e : Env) (v : Nat) : Keeps m (expireProgress e v n) := by
  unfold Machine.expireProgress; split
  · exact h.faultStroke ..
  · exact h
theorem Keeps.expireDeadline (e : Env) (v : Nat) : Keeps m (expireDeadline e v n) := by
  unfold Machine.expireDeadline; split
  · exact h.faultStroke ..
  · exact h
theorem Keeps.boundaryCompletion (e : Env) : Keeps m (boundaryCompletion e n) := by
  unfold Machine.boundaryCompletion; split
  · exact h.completeBoundary ..
  · exact h
theorem Keeps.supplyCompletion (e : Env) : Keeps m (supplyCompletion e n) := by
  unfold Machine.supplyCompletion; split
  · exact h.completeSupply ..
  · exact h
theorem Keeps.topologyCompletion (e : Env) : Keeps m (topologyCompletion e n) := by
  unfold Machine.topologyCompletion; split
  · exact h.completeTopology ..
  · exact h
theorem Keeps.sensorsCompletion (e : Env) : Keeps m (sensorsCompletion e n) := by
  unfold Machine.sensorsCompletion; split
  · exact h.completeSensors ..
  · exact h
theorem Keeps.crossCompletion (e : Env) : Keeps m (crossCompletion e n) := by
  unfold Machine.crossCompletion; split
  · exact h.completeCross ..
  · exact h

end

end Sys2Proof.Machine
end

