-- ==== Sys2Proof/Laws/Lasts.lean ====
section
/-! SUPPORT. What settling an event leaves of every record: one lemma for each function that settling calls, each the next link of
a chain. -/

namespace Sys2Proof.Machine

theorem Net.Lasts.refl (n : Net) : n.Lasts n :=
  ⟨rfl, fun _ => ⟨rfl, fun _ => rfl⟩, fun _ => rfl, fun _ => .inl rfl, fun _ => rfl, fun _ h => ⟨h, rfl⟩,
    fun _ => ⟨rfl, rfl, fun _ => rfl⟩⟩

theorem Net.Lasts.trans {a b c : Net} (h : a.Lasts b) (h' : b.Lasts c) : a.Lasts c where
  fields := h'.fields.trans h.fields
  node k := by
    have h1 := h.node k
    have h2 := h'.node k
    refine ⟨by rw [h2.1, h1.1], fun ho => ?_⟩
    have e1 := h1.2 ho
    rw [h2.2 (by rw [e1]; exact ho), e1]
  valve k := (h'.valve k).trans (h.valve k)
  sensor k := by
    rcases h.sensor k with h1 | ⟨hr, h1⟩ <;> rcases h'.sensor k with h2 | ⟨hr', h2⟩ <;> rw [h1] at h2
    · exact .inl h2
    · rw [h1] at hr'; exact .inr ⟨hr', h2⟩
    · exact .inr ⟨hr, h2⟩
    · exact .inr ⟨hr, h2⟩
  cell k := (h'.cell k).trans (h.cell k)
  incident i hi := by
    have h1 := h.incident i hi
    have h2 := h'.incident i h1.1
    exact ⟨h2.1, h2.2.trans h1.2⟩
  cause k := by
    have h1 := h.cause k
    have h2 := h'.cause k
    exact ⟨h2.1.trans h1.1, h2.2.1.trans h1.2.1, fun hk => (h2.2.2 hk).trans (h1.2.2 hk)⟩

/-- From canonical tables, canonical tables with everything left that lasts. -/
structure Follows (n n' : Net) : Prop where
  holds : n.Canonical → n'.Canonical ∧ n.Lasts n'

theorem Follows.refl (n : Net) : Follows n n := ⟨fun c => ⟨c, .refl n⟩⟩

/-- One more link: the next net is canonical and leaves what lasts. -/
theorem Follows.next {m n n' : Net} (h : Follows m n) (h' : n.Canonical → n'.Canonical ∧ n.Lasts n') : Follows m n' :=
  ⟨fun c =>
    have h1 := h.holds c
    have h2 := h' h1.1
    ⟨h2.1, h1.2.trans h2.2⟩⟩

theorem Follows.foldl {α : Type} {f : Net → α → Net} (hf : ∀ {m n : Net} (a : α), Follows m n → Follows m (f n a)) {m n : Net}
    (h : Follows m n) (l : List α) : Follows m (l.foldl f n) := by
  induction l generalizing n with
  | nil => exact h
  | cons a l ih => exact ih (hf a h)

section

variable {m n : Net} (h : Follows m n)
include h

/-! ### Single changes -/

/-- A change of the fields that notices are free to change, beside the tables. -/
theorem Follows.free {n' : Net} (h1 : n'.nodes = n.nodes) (h2 : n'.pipes = n.pipes) (h3 : n'.valves = n.valves)
    (h4 : n'.sensors = n.sensors) (h5 : n'.cells = n.cells) (h6 : n'.incidents = n.incidents) (h7 : n'.causes = n.causes)
    (h8 : n'.lasting = n.lasting) : Follows m n' :=
  h.next fun c => ⟨c.congr h1 h2 h3 h4 h5 h6 h7,
    { fields := h8
      node := fun k => by unfold Net.node; rw [h1]; exact ⟨rfl, fun _ => rfl⟩
      valve := fun k => by unfold Net.valve; rw [h3]
      sensor := fun k => by unfold Net.sensor; rw [h4]; exact .inl rfl
      cell := fun k => by unfold Net.cell; rw [h5]
      incident := fun i hi => by unfold Net.incident at hi ⊢; rw [h6]; exact ⟨hi, rfl⟩
      cause := fun k => by unfold Net.cause; rw [h7]; exact ⟨rfl, rfl, fun _ => rfl⟩ }⟩

theorem Follows.setValve {k : Nat} {v : Valve} (hv : v.lasting = (n.valve k).lasting) : Follows m (n.setValve k v) :=
  h.next fun c => ⟨c.setValve k v, { Net.Lasts.refl n with
    fields := rfl
    valve := fun j => by
      rw [c.valve_setValve]; split
      · subst_vars; exact hv
      · rfl }⟩

theorem Follows.setCell {k : Nat} {v : Cell} (hv : v.lasting = (n.cell k).lasting) : Follows m (n.setCell k v) :=
  h.next fun c => ⟨c.setCell k v, { Net.Lasts.refl n with
    fields := rfl
    cell := fun j => by
      rw [c.cell_setCell]; split
      · subst_vars; exact hv
      · rfl }⟩

theorem Follows.setIncident {k : Nat} {v : Incident}
    (hv : (n.incident k).state ≠ .free → v.state ≠ .free ∧ v.lasting = (n.incident k).lasting) :
    Follows m (n.setIncident k v) :=
  h.next fun c => ⟨c.setIncident k v, { Net.Lasts.refl n with
    fields := rfl
    incident := fun j hj => by
      rw [c.incident_setIncident]; split
      · subst_vars; exact hv hj
      · exact ⟨hj, rfl⟩ }⟩

theorem Follows.setOwner {k : Nat} {o : Option Owner} (hv : (n.node k).owner = none) :
    Follows m (n.setNode k { n.node k with owner := o }) :=
  h.next fun c => ⟨c.setNode _ _, { Net.Lasts.refl n with
    fields := rfl
    node := fun j => by
      rw [c.node_setNode]; split
      · subst_vars; exact ⟨rfl, fun ho => by rw [hv] at ho; cases ho⟩
      · exact ⟨rfl, fun _ => rfl⟩ }⟩

theorem Follows.raise (e : Env) {c : Cause} (hc : c.number ∈ noticeCauses) (a b : Nat) : Follows m (raise e c a b n) :=
  h.next fun cn => ⟨cn.setCause _ _, { Net.Lasts.refl n with
    fields := rfl
    cause := fun k => by
      unfold Machine.raise
      rw [cn.cause_setCause]; split
      · subst_vars; exact ⟨rfl, rfl, fun hk => absurd hc hk⟩
      · exact ⟨rfl, rfl, fun _ => rfl⟩ }⟩

theorem Follows.modIncident (i : Nat) {f : Incident → Incident}
    (hf : (n.incident i).state ≠ .free → (f (n.incident i)).state ≠ .free ∧ (f (n.incident i)).lasting = (n.incident i).lasting) :
    Follows m (modIncident i f n) := h.setIncident hf

theorem Follows.modCell (k : Nat) {f : Cell → Cell} (hf : (f (n.cell k)).lasting = (n.cell k).lasting) :
    Follows m (modCell k f n) := h.setCell hf

theorem Follows.modValve (k : Nat) {f : Valve → Valve} (hf : (f (n.valve k)).lasting = (n.valve k).lasting) :
    Follows m (modValve k f n) := h.setValve hf

theorem Follows.modFrame (i l : Nat) (f : Frame → Frame) : Follows m (modFrame i l f n) :=
  h.modIncident i fun hi => ⟨hi, rfl⟩

theorem Follows.agenda (a : Agenda) : Follows m { n with agenda := a } := h.free rfl rfl rfl rfl rfl rfl rfl rfl
theorem Follows.noteSensors (l : List Nat) : Follows m (noteSensors l n) := h.agenda _
theorem Follows.noteIncident (i : Nat) : Follows m (noteIncident i n) := by
  unfold Machine.noteIncident; split
  · exact h
  · exact h.agenda _
theorem Follows.noteValve (v : Nat) (b : Bool) : Follows m (noteValve v b n) := by
  unfold Machine.noteValve; split
  · exact h
  · split <;> exact h.agenda _
theorem Follows.judgeAttn : Follows m (judgeAttn n) := h.free rfl rfl rfl rfl rfl rfl rfl rfl

/-! ### Strokes asked for -/

theorem Follows.queue (q : StrokeQueue) : Follows m { n with queue := q } := h.free rfl rfl rfl rfl rfl rfl rfl rfl

omit h in
theorem Valve.granted_lasting (x : Valve) (p : Params) (now : Time) : (x.granted p now).lasting = x.lasting := by
  unfold Valve.granted; cases x.purpose <;> rfl

theorem Follows.grant (e : Env) (v : Nat) : Follows m (grant e v n) := by
  have h' : Follows m { n with queue := n.queue.without v, slots := n.slots ++ [v] } :=
    h.free rfl rfl rfl rfl rfl rfl rfl rfl
  exact (h'.modValve v (f := fun x => x.granted n.params e.time) (Valve.granted_lasting ..)).noteValve ..

theorem Follows.grantUpTo (e : Env) (k : Nat) : Follows m (grantUpTo e k n) := by
  induction k generalizing n with
  | zero => exact h
  | succ k ih =>
    unfold Machine.grantUpTo; split
    · split
      · exact h
      · rename_i p v _
        have h' : Follows m { n with passedOver := p } := h.free rfl rfl rfl rfl rfl rfl rfl rfl
        exact ih (h'.grant e v)
    · exact h

theorem Follows.arbitrate (e : Env) : Follows m (arbitrate e n) := h.grantUpTo ..
theorem Follows.joinQueue (e : Env) (v : Nat) (p : Purpose) : Follows m (joinQueue e v p n) :=
  (((h.queue ((n.queue.without v).join v p)).modValve v
    (f := fun x => { x with motion := .waiting, purpose := p, seated := false }) rfl).noteValve v false).arbitrate e

/-- A close request for a valve at REST. -/
theorem Follows.closeRequest (e : Env) (v : Nat) (hv : (n.valve v).motion = .rest) : Follows m (closeRequest e v n) := by
  have hc : Machine.closeRequest e v n = Machine.joinQueue e v .close n := by
    unfold Machine.closeRequest; dsimp only; rw [hv]
  rw [hc]; exact h.joinQueue ..

/-! ### Jobs -/

theorem Follows.setMarker (j : Job) (k : Marker) : Follows m (setMarker j k n) := by
  cases j <;> dsimp only [Machine.setMarker]
  · exact h.modIncident _ fun hi => ⟨hi, rfl⟩
  · exact h.modIncident _ fun hi => ⟨hi, rfl⟩
  · exact h.free rfl rfl rfl rfl rfl rfl rfl rfl
  · exact h.free rfl rfl rfl rfl rfl rfl rfl rfl
  · exact h
theorem Follows.pushFrame (e : Env) (i l : Nat) : Follows m (pushFrame e i l n) := by
  unfold Machine.pushFrame; dsimp only
  refine Follows.raise ?_ e (c := .escalated) (by decide) ..
  exact h.modIncident i fun hi => ⟨hi, rfl⟩
theorem Follows.jobs (l : List Job) : Follows m { n with jobs := l } := h.free rfl rfl rfl rfl rfl rfl rfl rfl
theorem Follows.startJob (e : Env) (j : Job) : Follows m (startJob e j n) := by
  have hw : Follows m { n with walker := some ⟨j, false⟩ } := h.free rfl rfl rfl rfl rfl rfl rfl rfl
  unfold Machine.startJob; dsimp only; split
  · split
    · exact hw.setMarker ..
    · exact (hw.setMarker ..).pushFrame ..
  · exact hw.setMarker ..
theorem Follows.startFrom (e : Env) (js : List Job) : Follows m (startFrom e js n) := by
  induction js generalizing n with
  | nil => exact h.jobs _
  | cons j js ih =>
    unfold Machine.startFrom; split
    · exact ih (h.setMarker ..)
    · exact (h.jobs js).startJob e j
theorem Follows.startJobs (e : Env) : Follows m (startJobs e n) := by
  unfold Machine.startJobs; split
  · exact h
  · exact h.startFrom ..
theorem Follows.queueJob (e : Env) (j : Job) : Follows m (queueJob e j n) := ((h.jobs _).setMarker ..).startJobs e

/-! ### Incidents -/

theorem Follows.claimNode (i l k : Nat) (hk : (n.node k).owner = none) : Follows m (claimNode i l k n) :=
  ((h.setOwner (o := some ⟨i, l⟩) hk).modFrame ..).noteSensors ..

theorem Follows.openIncident (e : Env) (i : Nat) (o : Opening) (hi : (n.incident i).state = .free)
    (hk : (n.node o.node).owner = none) : Follows m (openIncident e i o n) :=
  ((((h.modIncident i (f := fun r => r.opened o e.time) fun hf => absurd hi hf).claimNode i 0 o.node hk).queueJob e
    (.boundary i 0)).raise e (c := .opened) (by decide) ..)

theorem Follows.enterFailed (e : Env) (i : Nat) (w : FailReason) : Follows m (enterFailed e i w n) := by
  unfold Machine.enterFailed; split
  · exact h
  · refine Follows.noteIncident (Follows.raise ?_ e (c := .failed) (by decide) ..) ..
    exact h.modIncident i fun _ => ⟨by simp, rfl⟩
theorem Follows.judgeIsolation (e : Env) (i : Nat) : Follows m (judgeIsolation e i n) := by
  unfold Machine.judgeIsolation; split
  · refine Follows.noteIncident (Follows.raise ?_ e (c := .isolated) (by decide) ..) ..
    exact h.modIncident i fun _ => ⟨by simp, rfl⟩
  · exact h
theorem Follows.recordFault (e : Env) (i v : Nat) : Follows m (recordFault e i v n) := by
  have h' : Follows m (Machine.modIncident i (fun r => r.withFailed v true) n) := h.modIncident i fun hi => ⟨hi, rfl⟩
  unfold Machine.recordFault; dsimp only; split
  · exact h
  · split
    · exact h
    · split
      · exact h'
      · split
        · exact h'.enterFailed ..
        · exact h'.modIncident i fun hi => ⟨hi, rfl⟩
theorem Follows.takeClosingNotice (e : Env) (i v : Nat) : Follows m (takeClosingNotice e i v n) := by
  have h' : ∀ b : Bool, (b = true → (n.valve v).motion = .rest) →
      Follows m (if b then Machine.closeRequest e v n else n) := fun b hb => by
    cases b
    · exact h
    · exact h.closeRequest e v (hb rfl)
  refine (h' _ fun hb => ?_).judgeIsolation ..
  split at hb
  · simp only [Bool.and_eq_true, decide_eq_true_eq] at hb; exact hb.1.2
  · cases hb
theorem Follows.takeValveNotice (e : Env) (a : ValveNotice) (i : Nat) : Follows m (takeValveNotice e a i n) := by
  unfold Machine.takeValveNotice; split
  · exact h.recordFault ..
  · split
    · exact h.takeClosingNotice ..
    · exact h
theorem Follows.escalate (e : Env) (i : Nat) : Follows m (escalate e i n) := by
  unfold Machine.escalate; dsimp only; split
  · exact h
  · split
    · exact h.enterFailed ..
    · refine Follows.noteIncident (Follows.queueJob ?_ ..) ..
      exact h.modIncident i fun _ => ⟨by simp, rfl⟩

/-! ### Cells -/

omit h in
theorem Cell.judged_lasting (c : Cell) (now : Time) : (c.judged now).lasting = c.lasting := by
  unfold Cell.judged; repeat' split
  all_goals rfl

theorem Follows.recompute (e : Env) (k : Nat) : Follows m (recompute e k n) := by
  unfold Machine.recompute; dsimp only; split
  · exact h
  · exact h.setCell (Cell.judged_lasting ..)
theorem Follows.rescore (k : Nat) : Follows m (rescore k n) := h.modCell k rfl

omit h in
theorem sensor_rebaseline {n : Net} (c : n.Canonical) (p : Sensor → Bool) (k : Nat) :
    (rebaseline p n).sensor k =
      if p (n.sensor k) && (n.sensor k).rebaselines then { (n.sensor k).restarted with shown := false } else n.sensor k := by
  refine lookup_mapTable (f := fun _ s => if p s && s.rebaselines then { s.restarted with shown := false } else s) c.sensors (fun j => ?_) k
  have : Sensor.rebaselines Sensor.atReset = false := rfl
  rw [this, Bool.and_false]; rfl

theorem Follows.rebaseline (p : Sensor → Bool) : Follows m (rebaseline p n) :=
  h.next fun c => ⟨((Keeps.refl n).rebaseline p).1 c, { Net.Lasts.refl n with
    fields := rfl
    sensor := fun k => by
      rw [sensor_rebaseline c]; split
      · rename_i hp; exact .inr ⟨(Bool.and_eq_true_iff.1 hp).2, rfl⟩
      · exact .inl rfl }⟩

theorem Follows.showSensor (s : Nat) : Follows m (showSensor s n) :=
  h.next fun c => ⟨c.setSensor _ _, { Net.Lasts.refl n with
    fields := rfl
    sensor := fun k => by
      unfold Machine.showSensor Machine.modSensor
      rw [c.sensor_setSensor]; split
      · subst_vars; exact .inl rfl
      · exact .inl rfl }⟩

theorem Follows.reevaluate (e : Env) : Follows m (reevaluate e n) := by
  unfold Machine.reevaluate; dsimp only
  refine Follows.foldl (fun k h => (h.recompute e k).rescore k) ?_ _
  have h' := Follows.foldl (fun k h => h.modCell k (f := Cell.resume) rfl)
    (Follows.foldl (fun k h => h.modCell k (f := Cell.suspend) rfl) h
      (idsWhere (fun k c => c.tag = .adopted && c.active && suspensionHolds n k) n.cells))
    (idsWhere (fun k c => c.tag = .adopted && c.state = .suspended && !suspensionHolds n k) n.cells)
  split
  · exact h'
  · exact h'.rebaseline ..

omit h in
theorem lowestFree_free {n : Net} {i : Nat} (hi : lowestFree n = some i) : (n.incident i).state = .free := by
  simpa using List.find?_some hi

theorem Follows.locate (e : Env) (k : Nat) : Follows m (locate e k n) := by
  unfold Machine.locate; dsimp only; split
  · refine Follows.rescore (Follows.rebaseline (Follows.setCell h ?_) _) k
    rfl
  · split
    · refine Follows.raise (Follows.setCell h ?_) e (c := .noIncident) (by decide) ..
      rfl
    · rename_i ho _ i hi
      refine Follows.reevaluate (Follows.openIncident (Follows.setCell h ?_) e i _ ?_ ?_) e
      · rfl
      · exact lowestFree_free hi
      · exact ho

theorem Follows.evaluate (e : Env) (k : Nat) : Follows m (evaluate e k n) := by
  unfold Machine.evaluate; dsimp only; split
  · exact (h.rescore k).locate ..
  · exact h.rescore k
theorem Follows.sweep (e : Env) : Follows m (sweep e n) := by
  refine Follows.foldl (fun k h => ?_) h _
  split
  · exact h.locate ..
  · exact h
theorem Follows.takeIncidentNotice (e : Env) (b : Bool) : Follows m (takeIncidentNotice e b n) := by
  unfold Machine.takeIncidentNotice; split
  · exact (h.reevaluate e).sweep e
  · exact h.reevaluate e
theorem Follows.takeCell (e : Env) (s k : Nat) : Follows m (takeCell e s k n) := by
  unfold Machine.takeCell
  refine Follows.evaluate ?_ ..
  split
  · exact h.recompute ..
  · exact h
theorem Follows.takeSensorNotice (e : Env) (s : Nat) : Follows m (takeSensorNotice e s n) :=
  Follows.foldl (fun k h => h.takeCell e s k) (h.showSensor s) _

/-! ### Settling -/

theorem Follows.giveValveNotice (e : Env) (a : ValveNotice) : Follows m (giveValveNotice e a n) :=
  Follows.foldl (fun i h => h.takeValveNotice e a i) h _
theorem Follows.drainValves (e : Env) (k : Nat) : Follows m (drainValves e k n) := by
  induction k generalizing n with
  | zero => exact h
  | succ k ih =>
    unfold Machine.drainValves; split
    · exact h
    · exact ih ((h.agenda _).giveValveNotice ..)
theorem Follows.judgeEscalations (e : Env) : Follows m (judgeEscalations e n) :=
  Follows.foldl (fun i h => h.escalate e i) h incidentIds
theorem Follows.drainIncidents (e : Env) : Follows m (drainIncidents e n) :=
  Follows.foldl (fun b h => h.takeIncidentNotice e b) (h.agenda _) _
theorem Follows.drainSensors (e : Env) (k : Nat) : Follows m (drainSensors e k n) := by
  induction k generalizing n with
  | zero => exact h
  | succ k ih =>
    unfold Machine.drainSensors; split
    · exact h
    · exact ih (Follows.foldl (fun s h => h.takeSensorNotice e s) (h.agenda _) _)

end

end Sys2Proof.Machine
end

