-- ==== Sys2Proof/Laws/Settling.lean ====
section
/-! SUPPORT. When settling changes nothing but ATTN, and that nothing is pending after it. -/

namespace Sys2Proof.Machine

/-! ### An event that gives no notice -/

theorem drainValves_calm (e : Env) (k : Nat) {n : Net} (h : n.agenda.valves = []) : drainValves e k n = n := by
  cases k with
  | zero => rfl
  | succ k => unfold drainValves; rw [h]

theorem drainSensors_calm (e : Env) (k : Nat) {n : Net} (h : n.agenda.sensors = []) : drainSensors e k n = n := by
  cases k with
  | zero => rfl
  | succ k => unfold drainSensors; rw [h]

theorem escalate_calm (e : Env) (i : Nat) {n : Net} (h : callsForEscalation (n.incident i) = false) : escalate e i n = n := by
  unfold escalate; dsimp only; rw [h]; rfl

theorem foldl_calm {α : Type} {f : Net → α → Net} {n : Net} {l : List α} (h : ∀ a ∈ l, f n a = n) : l.foldl f n = n := by
  induction l with
  | nil => rfl
  | cons a l ih =>
    rw [List.foldl_cons, h a (List.mem_cons_self ..)]
    exact ih fun b hb => h b (List.mem_cons_of_mem _ hb)

/-- With no notice given and no escalation called for, settling judges ATTN and does nothing else. -/
theorem settle_calm (e : Env) {n : Net} (ha : n.agenda = {})
    (hc : ∀ i ∈ incidentIds, callsForEscalation (n.incident i) = false) : settle e n = judgeAttn n := by
  have h1 : drainValves e Config.valveRounds n = n := drainValves_calm e _ (by rw [ha])
  have h2 : judgeEscalations e n = n := foldl_calm fun i hi => escalate_calm e i (hc i hi)
  have h3 : drainIncidents e n = n := by
    unfold drainIncidents; rw [ha]; dsimp only [List.map, List.foldl]
    cases n; cases ha; rfl
  have h4 : drainSensors e Config.sensorRounds n = n := drainSensors_calm e _ (by rw [ha])
  unfold settle
  dsimp only
  rw [h1, h2, h3, h4]
  cases n; cases ha; rfl

/-- Settling a net that differs from a settled one in neither agenda nor incidents. -/
theorem settle_as {m n : Net} (e : Env) (h : m.Settled) (ha : n.agenda = m.agenda) (hi : n.incidents = m.incidents) :
    settle e n = judgeAttn n :=
  settle_calm e (ha.trans h.agenda) fun i hm => by
    have : n.incident i = m.incident i := by unfold Net.incident; rw [hi]
    rw [this]; exact h.escalation i hm

theorem settle_settled_net {n : Net} (e : Env) (h : n.Settled) : settle e n = judgeAttn n := settle_as e h rfl rfl

/-- Settling ends with ATTN judged. -/
theorem settle_judged (e : Env) (n : Net) : settle e n = judgeAttn (settle e n) := by
  unfold settle; dsimp only
  generalize drainSensors e Config.sensorRounds _ = q
  rfl

/-! ### No escalation is called for after they have been judged -/

/-- From canonical tables: canonical tables, and no call for an escalation that was not there. -/
structure Calms (n n' : Net) : Prop where
  holds : n.Canonical → n'.Canonical ∧
    ∀ i, callsForEscalation (n.incident i) = false → callsForEscalation (n'.incident i) = false

theorem Calms.refl (n : Net) : Calms n n := ⟨fun c => ⟨c, fun _ h => h⟩⟩

theorem Calms.next {m n n' : Net} (h : Calms m n) (h' : n.Canonical → n'.Canonical ∧
    ∀ i, callsForEscalation (n.incident i) = false → callsForEscalation (n'.incident i) = false) : Calms m n' :=
  ⟨fun c =>
    have h1 := h.holds c
    have h2 := h' h1.1
    ⟨h2.1, fun i hi => h2.2 i (h1.2 i hi)⟩⟩

theorem Calms.foldl {α : Type} {f : Net → α → Net} (hf : ∀ {m n : Net} (a : α), Calms m n → Calms m (f n a)) {m n : Net}
    (h : Calms m n) (l : List α) : Calms m (l.foldl f n) := by
  induction l generalizing n with
  | nil => exact h
  | cons a l ih => exact ih (hf a h)

section

variable {m n : Net} (h : Calms m n)
include h

/-- A change that keeps canonical tables and leaves the incidents. -/
theorem Calms.aside {n' : Net} (hk : Keeps n n') (hi : n'.incidents = n.incidents) : Calms m n' :=
  h.next fun c => ⟨hk.1 c, fun i hc => by unfold Net.incident at hc ⊢; rw [hi]; exact hc⟩

theorem Calms.modIncident (k : Nat) (f : Incident → Incident)
    (hf : callsForEscalation (n.incident k) = false → callsForEscalation (f (n.incident k)) = false) :
    Calms m (modIncident k f n) :=
  h.next fun c => ⟨c.setIncident _ _, fun i hc => by
    unfold Machine.modIncident
    rw [c.incident_setIncident]; split
    · subst_vars; exact hf hc
    · exact hc⟩

theorem Calms.raise (e : Env) (c : Cause) (a b : Nat) : Calms m (raise e c a b n) := h.aside ((Keeps.refl n).raise ..) rfl
theorem Calms.noteSensors (l : List Nat) : Calms m (noteSensors l n) := h.aside ((Keeps.refl n).noteSensors ..) rfl
theorem Calms.noteIncident (i : Nat) : Calms m (noteIncident i n) := by
  refine h.aside ((Keeps.refl n).noteIncident ..) ?_
  unfold Machine.noteIncident; split <;> rfl
theorem Calms.agenda (a : Agenda) : Calms m { n with agenda := a } := h.aside ((Keeps.refl n).agenda a) rfl
theorem Calms.modFrame (i l : Nat) (f : Frame → Frame) : Calms m (modFrame i l f n) := h.modIncident _ _ fun hc => hc

/-- The marker of a job becomes QUEUED or RUNNING, or that of a FAILED incident's job NONE. -/
theorem Calms.setMarker (j : Job) (k : Marker) (hk : k ≠ .none ∨ dropsAtStart n j = true) : Calms m (setMarker j k n) := by
  cases j <;> dsimp only [Machine.setMarker]
  · refine h.modIncident _ _ fun _ => ?_
    rcases hk with hk | hk
    · simp [callsForEscalation, hk]
    · simp [dropsAtStart, Job.incident] at hk; simp [callsForEscalation, hk]
  · refine h.modIncident _ _ fun _ => ?_
    rcases hk with hk | hk
    · simp [callsForEscalation, hk]
    · simp [dropsAtStart, Job.incident] at hk; simp [callsForEscalation, hk]
  · exact h.aside ((Keeps.refl n).setMarker .adoptTopology k) rfl
  · exact h.aside ((Keeps.refl n).setMarker .adoptSensors k) rfl
  · exact h

theorem Calms.pushFrame (e : Env) (i l : Nat) : Calms m (pushFrame e i l n) := by
  unfold Machine.pushFrame; dsimp only
  refine Calms.raise (h.modIncident _ _ fun hc => ?_) ..
  simp only [callsForEscalation, Bool.and_eq_false_iff, Bool.not_eq_false'] at hc ⊢
  rcases hc with (hc | hc) | hc
  · exact .inl (.inl hc)
  · refine .inl (.inr ?_)
    simp only [List.isEmpty_iff] at hc ⊢
    rw [hc]; rfl
  · exact .inr hc

theorem Calms.startJob (e : Env) (j : Job) : Calms m (startJob e j n) := by
  have hw : Calms m { n with walker := some ⟨j, false⟩ } :=
    h.next fun c => ⟨c.congr rfl rfl rfl rfl rfl rfl rfl, fun _ hc => hc⟩
  unfold Machine.startJob; dsimp only; split
  · split
    · exact hw.setMarker _ _ (.inl (by decide))
    · exact (hw.setMarker _ _ (.inl (by decide))).pushFrame ..
  · exact hw.setMarker _ _ (.inl (by decide))

theorem Calms.jobs (l : List Job) : Calms m { n with jobs := l } :=
  h.next fun c => ⟨c.congr rfl rfl rfl rfl rfl rfl rfl, fun _ hc => hc⟩

theorem Calms.startFrom (e : Env) (js : List Job) : Calms m (startFrom e js n) := by
  induction js generalizing n with
  | nil => exact h.jobs _
  | cons j js ih =>
    unfold Machine.startFrom; split
    · exact ih (h.setMarker _ _ (.inr (by assumption)))
    · exact (h.jobs js).startJob e j
theorem Calms.startJobs (e : Env) : Calms m (startJobs e n) := by
  unfold Machine.startJobs; split
  · exact h
  · exact h.startFrom ..
theorem Calms.queueJob (e : Env) (j : Job) : Calms m (queueJob e j n) :=
  ((h.jobs _).setMarker _ _ (.inl (by decide))).startJobs e

theorem Calms.enterFailed (e : Env) (i : Nat) (w : FailReason) : Calms m (enterFailed e i w n) := by
  unfold Machine.enterFailed; split
  · exact h
  · exact ((h.modIncident _ _ fun _ => rfl).raise ..).noteIncident ..
theorem Calms.escalate (e : Env) (i : Nat) : Calms m (escalate e i n) := by
  unfold Machine.escalate; dsimp only; split
  · exact h
  · split
    · exact h.enterFailed ..
    · exact ((h.modIncident _ _ fun _ => rfl).queueJob ..).noteIncident ..

theorem Calms.openIncident (e : Env) (i : Nat) (o : Opening) : Calms m (openIncident e i o n) := by
  have h' : Calms m (claimNode i 0 o.node (Machine.modIncident i (fun r => r.opened o e.time) n)) :=
    (((h.modIncident _ _ fun _ => rfl).aside ((Keeps.refl _).modNode o.node _) rfl).modFrame i 0 _).noteSensors _
  exact (h'.queueJob ..).raise ..

/-! ### Cells leave the incidents, but for openings -/

theorem Calms.modCell (k : Nat) (f : Cell → Cell) : Calms m (modCell k f n) := h.aside ((Keeps.refl n).modCell ..) rfl
theorem Calms.setCell (k : Nat) (v : Cell) : Calms m (n.setCell k v) := h.aside ((Keeps.refl n).setCell ..) rfl
theorem Calms.rebaseline (p : Sensor → Bool) : Calms m (rebaseline p n) := h.aside ((Keeps.refl n).rebaseline ..) rfl
theorem Calms.recompute (e : Env) (k : Nat) : Calms m (recompute e k n) := by
  unfold Machine.recompute; dsimp only; split
  · exact h
  · exact h.setCell ..
theorem Calms.rescore (k : Nat) : Calms m (rescore k n) := h.modCell ..
theorem Calms.reevaluate (e : Env) : Calms m (reevaluate e n) := by
  unfold Machine.reevaluate; dsimp only
  refine Calms.foldl (fun k h => (h.recompute e k).rescore k) ?_ _
  have h' := Calms.foldl (fun k h => h.modCell k Cell.resume) (Calms.foldl (fun k h => h.modCell k Cell.suspend) h
    (idsWhere (fun k c => c.tag = .adopted && c.active && suspensionHolds n k) n.cells))
    (idsWhere (fun k c => c.tag = .adopted && c.state = .suspended && !suspensionHolds n k) n.cells)
  split
  · exact h'
  · exact h'.rebaseline ..
theorem Calms.locate (e : Env) (k : Nat) : Calms m (locate e k n) := by
  unfold Machine.locate; dsimp only; split
  · exact ((h.setCell ..).rebaseline ..).rescore ..
  · split
    · exact (h.setCell ..).raise ..
    · exact ((h.setCell ..).openIncident ..).reevaluate ..
theorem Calms.evaluate (e : Env) (k : Nat) : Calms m (evaluate e k n) := by
  unfold Machine.evaluate; dsimp only; split
  · exact (h.rescore ..).locate ..
  · exact h.rescore ..
theorem Calms.sweep (e : Env) : Calms m (sweep e n) := by
  refine Calms.foldl (fun k h => ?_) h _
  split
  · exact h.locate ..
  · exact h
theorem Calms.takeIncidentNotice (e : Env) (b : Bool) : Calms m (takeIncidentNotice e b n) := by
  unfold Machine.takeIncidentNotice; split
  · exact (h.reevaluate ..).sweep ..
  · exact h.reevaluate ..
theorem Calms.takeCell (e : Env) (s k : Nat) : Calms m (takeCell e s k n) := by
  unfold Machine.takeCell
  refine Calms.evaluate ?_ ..
  split
  · exact h.recompute ..
  · exact h
theorem Calms.showSensor (s : Nat) : Calms m (showSensor s n) := h.aside ((Keeps.refl n).showSensor s) rfl
theorem Calms.takeSensorNotice (e : Env) (s : Nat) : Calms m (takeSensorNotice e s n) :=
  Calms.foldl (fun k h => h.takeCell e s k) (h.showSensor s) _
theorem Calms.drainIncidents (e : Env) : Calms m (drainIncidents e n) :=
  Calms.foldl (fun b h => h.takeIncidentNotice e b) (h.agenda _) _
theorem Calms.drainSensors (e : Env) (k : Nat) : Calms m (drainSensors e k n) := by
  induction k generalizing n with
  | zero => exact h
  | succ k ih =>
    unfold Machine.drainSensors; split
    · exact h
    · exact ih (Calms.foldl (fun s h => h.takeSensorNotice e s) (h.agenda _) _)

end

/-- A judged incident calls for no escalation any more. -/
theorem escalate_done {n : Net} (e : Env) (c : n.Canonical) (i : Nat) :
    callsForEscalation ((escalate e i n).incident i) = false := by
  have hn : ∀ (n : Net) (k : Nat), (noteIncident k n).incident i = n.incident i := fun n k => by
    unfold noteIncident; split <;> rfl
  unfold escalate; dsimp only; split
  · rename_i hc; simpa using hc
  · split
    · unfold enterFailed; split
      · rename_i hs; simp [callsForEscalation, hs]
      · rw [hn]
        unfold raise modIncident
        rw [setCause_incident, c.incident_setIncident_same]; rfl
    · rw [hn]
      have hk : (modIncident i (fun r => { r.unheld with state := .searching }) n).Canonical := c.setIncident _ _
      refine (((Calms.refl _).queueJob e (.boundary i ((n.incident i).depth + 1))).holds hk).2 i ?_
      have : (modIncident i (fun r => { r.unheld with state := .searching }) n).incident i =
          { (n.incident i).unheld with state := .searching } := c.incident_setIncident_same i _
      rw [this]; rfl

theorem escalations_done {n : Net} (e : Env) (c : n.Canonical) (l : List Nat) :
    ∀ i ∈ l, callsForEscalation ((l.foldl (fun n i => escalate e i n) n).incident i) = false := by
  induction l generalizing n with
  | nil => intro i hi; cases hi
  | cons a l ih =>
    intro i hi
    have ca := ((Keeps.refl n).escalate e a).1 c
    rcases List.mem_cons.1 hi with rfl | hi
    · exact ((Calms.foldl (fun j h => h.escalate e j) (Calms.refl (escalate e i n)) l).holds ca).2 i (escalate_done e c i)
    · exact ih ca i hi

/-- After settling nothing is pending. -/
theorem settle_settles {n : Net} (e : Env) (c : n.Canonical) : (settle e n).Settled where
  agenda := by
    unfold settle; dsimp only
    generalize drainSensors e Config.sensorRounds _ = q
    rfl
  escalation i hi := by
    have c1 := ((Keeps.refl n).drainValves e Config.valveRounds).1 c
    have c2 := ((Keeps.refl _).judgeEscalations e).1 c1
    have h1 : callsForEscalation ((judgeEscalations e (drainValves e Config.valveRounds n)).incident i) = false :=
      escalations_done e c1 incidentIds i hi
    have h2 := ((((Calms.refl _).drainIncidents e).drainSensors e Config.sensorRounds).holds c2).2 i h1
    unfold settle; dsimp only
    generalize drainSensors e Config.sensorRounds _ = q at h2 ⊢
    exact h2

end Sys2Proof.Machine
end

