-- ==== Sys2Proof/Laws/Attn.lean ====
section
/-! SUPPORT. What judging ATTN gives (R183). -/

namespace Sys2Proof.Machine

theorem draws_iff {n : Net} {k : Nat} : n.Draws k ↔ k < 16 ∧ ∃ l, 1 ≤ l ∧ l ≤ 3 ∧ (n.cause k).draws l = true := by
  unfold Net.Draws CauseRecord.draws
  constructor
  · rintro ⟨h, hf, h1, h3⟩
    exact ⟨h, _, h1, h3, by simp [hf]⟩
  · rintro ⟨h, l, h1, h3, hd⟩
    simp only [Bool.and_eq_true, beq_iff_eq] at hd
    exact ⟨h, hd.1, by omega, by omega⟩

/-- The cause found at a level is the lowest that draws attention at it. -/
theorem find_draws {n : Net} {l k : Nat} (h : causeIds.find? (fun k => (n.cause k).draws l) = some k) :
    k < 16 ∧ (n.cause k).draws l = true ∧ ∀ j, j < k → (n.cause j).draws l = false := by
  have h1 := List.find?_some h
  have h2 := List.mem_of_find?_eq_some h
  refine ⟨by simpa [causeIds] using h2, h1, fun j hj => ?_⟩
  simp only [causeIds, List.find?_range_eq_some] at h
  simpa using h.2.2 j hj

theorem no_draws {n : Net} {l : Nat} (h : causeIds.find? (fun k => (n.cause k).draws l) = none) (k : Nat) (hk : k < 16) :
    (n.cause k).draws l = false := by
  have := List.find?_eq_none.1 h k (by simpa [causeIds] using hk)
  simpa using this

theorem draws_level {r : CauseRecord} {l : Nat} (h : r.draws l = true) : r.flag = true ∧ r.level = l := by
  simpa [CauseRecord.draws] using h

/-- The cause chosen draws attention, at the highest level and with the lowest number; none is chosen when none draws it. -/
theorem chosenCause_spec (n : Net) :
    match chosenCause n with
    | none => ∀ k, ¬ n.Draws k
    | some k => n.Draws k ∧ ∀ j, n.Draws j →
        (n.cause j).level < (n.cause k).level ∨ ((n.cause j).level = (n.cause k).level ∧ k ≤ j) := by
  unfold chosenCause
  simp only [List.findSome?]
  cases h3 : causeIds.find? (fun k => (n.cause k).draws 3) with
  | some k =>
    have := find_draws h3
    have hl := draws_level this.2.1
    refine ⟨draws_iff.2 ⟨this.1, 3, by omega, by omega, this.2.1⟩, fun j hj => ?_⟩
    by_cases hjl : (n.cause j).level = 3
    · refine .inr ⟨by omega, ?_⟩
      refine Nat.le_of_not_lt fun hlt => ?_
      have := this.2.2 j (by omega)
      simp [CauseRecord.draws, hj.2.1, hjl] at this
    · exact .inl (by have := hj.2.2.2; omega)
  | none =>
    have n3 := no_draws h3
    cases h2 : causeIds.find? (fun k => (n.cause k).draws 2) with
    | some k =>
      have := find_draws h2
      have hl := draws_level this.2.1
      refine ⟨draws_iff.2 ⟨this.1, 2, by omega, by omega, this.2.1⟩, fun j hj => ?_⟩
      have hj3 : (n.cause j).level ≠ 3 := fun hx => by
        have := n3 j hj.1
        simp [CauseRecord.draws, hj.2.1, hx] at this
      by_cases hjl : (n.cause j).level = 2
      · refine .inr ⟨by omega, ?_⟩
        refine Nat.le_of_not_lt fun hlt => ?_
        have := this.2.2 j (by omega)
        simp [CauseRecord.draws, hj.2.1, hjl] at this
      · exact .inl (by have := hj.2.2.2; omega)
    | none =>
      have n2 := no_draws h2
      cases h1 : causeIds.find? (fun k => (n.cause k).draws 1) with
      | some k =>
        have := find_draws h1
        have hl := draws_level this.2.1
        refine ⟨draws_iff.2 ⟨this.1, 1, by omega, by omega, this.2.1⟩, fun j hj => ?_⟩
        have hj3 : (n.cause j).level ≠ 3 := fun hx => by
          have := n3 j hj.1
          simp [CauseRecord.draws, hj.2.1, hx] at this
        have hj2 : (n.cause j).level ≠ 2 := fun hx => by
          have := n2 j hj.1
          simp [CauseRecord.draws, hj.2.1, hx] at this
        refine .inr ⟨by have := hj.2.2; omega, ?_⟩
        refine Nat.le_of_not_lt fun hlt => ?_
        have := this.2.2 j (by omega)
        have hjl : (n.cause j).level = 1 := by have := hj.2.2; omega
        simp [CauseRecord.draws, hj.2.1, hjl] at this
      | none =>
        have n1 := no_draws h1
        intro k hk
        obtain ⟨hk16, l, hl1, hl3, hd⟩ := draws_iff.1 hk
        have : l = 1 ∨ l = 2 ∨ l = 3 := by omega
        rcases this with rfl | rfl | rfl
        · rw [n1 k hk16] at hd; cases hd
        · rw [n2 k hk16] at hd; cases hd
        · rw [n3 k hk16] at hd; cases hd

theorem drawsAttention_iff (n : Net) : drawsAttention n = true ↔ ∃ k, n.Draws k := by
  unfold drawsAttention
  rw [List.any_eq_true]
  constructor
  · rintro ⟨k, hk, h⟩
    simp only [Bool.or_eq_true] at h
    have hk16 : k < 16 := by simpa [causeIds] using hk
    rcases h with (h | h) | h
    · exact ⟨k, draws_iff.2 ⟨hk16, 1, by omega, by omega, h⟩⟩
    · exact ⟨k, draws_iff.2 ⟨hk16, 2, by omega, by omega, h⟩⟩
    · exact ⟨k, draws_iff.2 ⟨hk16, 3, by omega, by omega, h⟩⟩
  · rintro ⟨k, hk⟩
    obtain ⟨hk16, l, hl1, hl3, hd⟩ := draws_iff.1 hk
    refine ⟨k, by simpa [causeIds] using hk16, ?_⟩
    have : l = 1 ∨ l = 2 ∨ l = 3 := by omega
    rcases this with rfl | rfl | rfl <;> simp [hd]

/-- ATTN judged follows the causes (R183). -/
theorem judgeAttn_follows (n : Net) : (judgeAttn n).AttnFollows where
  attn := drawsAttention_iff n
  released h := by
    have hn : ¬ ∃ k, n.Draws k := fun hk => by
      rw [judgeAttn_attn, (drawsAttention_iff n).2 hk] at h; cases h
    have := chosenCause_spec n
    unfold judgeAttn
    dsimp only
    cases hc : chosenCause n with
    | none => rfl
    | some k => rw [hc] at this; exact absurd ⟨k, this.1⟩ hn
  asserted h := by
    obtain ⟨k, hk⟩ := (drawsAttention_iff n).1 h
    have := chosenCause_spec n
    cases hc : chosenCause n with
    | none => rw [hc] at this; exact absurd hk (this k)
    | some c =>
      rw [hc] at this
      refine ⟨c, this.1, ?_, this.2⟩
      unfold judgeAttn
      dsimp only
      rw [hc]
      rfl

end Sys2Proof.Machine
end

