-- ==== Sys2Proof/Laws/Bits.lean ====
section
/-! SUPPORT. Words packed from single bits. -/

namespace Sys2Proof.Machine

variable {α : Type}

/-- Single bits packed from `lo` on leave the bits below `lo` clear. -/
theorem packFrom_bits_mod (f : α → Bool) (l : List α) (lo : Nat) :
    packFrom lo (l.map fun k => (1, if f k then 1 else 0)) % 2 ^ lo = 0 := by
  induction l generalizing lo with
  | nil => simp [packFrom]
  | cons a l ih =>
    rw [List.map_cons, packFrom, Nat.shiftLeft_eq]
    have h2 : packFrom (lo + 1) (l.map fun k => (1, if f k then 1 else 0)) % 2 ^ lo = 0 :=
      Nat.mod_eq_zero_of_dvd (Nat.dvd_trans ⟨2, by rw [Nat.pow_succ]⟩ (Nat.dvd_of_mod_eq_zero (ih (lo + 1))))
    rw [Nat.add_mod, h2]; simp

/-- Bit b of single bits packed from `lo` on is that of the element b − lo. -/
theorem packFrom_bits (f : α → Bool) (l : List α) (lo b : Nat) :
    (packFrom lo (l.map fun k => (1, if f k then 1 else 0))).testBit b =
      (decide (lo ≤ b) && (l[b - lo]?.map f).getD false) := by
  induction l generalizing lo with
  | nil => simp [packFrom]
  | cons a l ih =>
    rw [List.map_cons, packFrom]
    have e : (if f a then 1 else 0) % 2 ^ 1 = (f a).toNat := by cases f a <;> rfl
    rw [e]
    obtain ⟨q, hq⟩ := Nat.dvd_of_mod_eq_zero (packFrom_bits_mod f l (lo + 1))
    have key : (f a).toNat <<< lo + packFrom (lo + 1) (l.map fun k => (1, if f k then 1 else 0)) =
        packFrom (lo + 1) (l.map fun k => (1, if f k then 1 else 0)) ||| (f a).toNat <<< lo := by
      rw [Nat.add_comm, hq]
      apply Nat.two_pow_add_eq_or_of_lt
      rw [Nat.shiftLeft_eq, Nat.pow_succ]
      have : (f a).toNat < 2 := by cases f a <;> decide
      have h0 : 0 < 2 ^ lo := Nat.pos_of_ne_zero (by simp)
      calc (f a).toNat * 2 ^ lo ≤ 1 * 2 ^ lo := Nat.mul_le_mul_right _ (by omega)
        _ < 2 ^ lo * 2 := by omega
    rw [key, Nat.testBit_or, ih, Nat.testBit_shiftLeft]
    by_cases h : b = lo
    · subst h; rw [Nat.sub_self, show decide (b + 1 ≤ b) = false by simp]; cases hf : f a <;> simp [hf]
    · by_cases h2 : lo + 1 ≤ b
      · have e2 : b - lo = (b - (lo + 1)) + 1 := by omega
        have e3 : (f a).toNat.testBit (b - (lo + 1) + 1) = false := by
          rw [Nat.testBit_succ]; cases f a <;> simp
        rw [e2, e3]
        simp [h2, show lo ≤ b by omega]
      · simp [h2, show ¬ lo ≤ b by omega]

end Sys2Proof.Machine
end

