-- ==== Sys2Proof/Laws/Bus.lean ====
section
/-! SUPPORT. Where the accesses of the commands fall (R192), what word 7 of a control record holds (R193), and the canonical form of
the latches and buffers. -/

namespace Sys2Proof.Machine

/-! ### Places -/

theorem placeOf_base (anch : BitVec 8) (off : Nat) (h : off < 2 ^ 20) (ha : off % 4 = 0) :
    placeOf anch (apertureBase anch + off) = placeOfOffset off := by
  unfold placeOf
  dsimp only
  rw [if_pos (by omega)]
  congr 1
  omega

theorem recordOffset_lt (r : RecordWord) : recordOffset r < 2 ^ 20 ∧ recordOffset r % 4 = 0 := by
  cases r <;> simp only [recordOffset] <;> omega

theorem placeOfOffset_record (r : RecordWord) : placeOfOffset (recordOffset r) = .record r := by
  unfold placeOfOffset
  cases r with
  | image slot w =>
    have h1 := slot.isLt
    have h2 := w.isLt
    have ho : recordOffset (.image slot w) = 16 * slot.toNat + 4 * w.toNat := rfl
    generalize recordOffset (.image slot w) = off at ho ⊢
    rw [if_pos (by omega)]
    congr 2 <;> apply BitVec.eq_of_toNat_eq <;> simp only [BitVec.toNat_ofNat] <;> omega
  | sample slot w =>
    have h1 := slot.isLt
    have h2 := w.isLt
    have ho : recordOffset (.sample slot w) = 0x10000 + 8 * slot.toNat + 4 * w.toNat := rfl
    generalize recordOffset (.sample slot w) = off at ho ⊢
    rw [if_neg (by omega), if_pos (by omega)]
    congr 2 <;> apply BitVec.eq_of_toNat_eq <;> simp only [BitVec.toNat_ofNat] <;> omega
  | position slot w =>
    have h1 := slot.isLt
    have h2 := w.isLt
    have ho : recordOffset (.position slot w) = 0x12000 + 8 * slot.toNat + 4 * w.toNat := rfl
    generalize recordOffset (.position slot w) = off at ho ⊢
    rw [if_neg (by omega), if_neg (by omega), if_pos (by omega)]
    congr 2 <;> apply BitVec.eq_of_toNat_eq <;> simp only [BitVec.toNat_ofNat] <;> omega
  | control w =>
    have h2 := w.isLt
    have ho : recordOffset (.control w) = 0x1E000 + 4 * w.toNat := rfl
    generalize recordOffset (.control w) = off at ho ⊢
    rw [if_neg (by omega), if_neg (by omega), if_neg (by omega), if_neg (by omega), if_pos (by omega)]
    congr 2 <;> apply BitVec.eq_of_toNat_eq <;> simp only [BitVec.toNat_ofNat] <;> omega

/-- The access of a record word falls on that word (R192). -/
theorem placeOf_record (anch : BitVec 8) (r : RecordWord) : placeOf anch (apertureBase anch + recordOffset r) = .record r := by
  rw [placeOf_base _ _ (recordOffset_lt r).1 (recordOffset_lt r).2, placeOfOffset_record]

/-- The access of a command slot's word falls on that word (R192). -/
theorem placeOf_command (anch : BitVec 8) (v : BitVec 11) (w : BitVec 2) :
    placeOf anch (apertureBase anch + commandOffset v.toNat w.toNat) = .command v.toNat w.toNat := by
  have h1 := v.isLt
  have h2 := w.isLt
  rw [placeOf_base _ _ (by unfold commandOffset; omega) (by unfold commandOffset; omega)]
  unfold placeOfOffset commandOffset
  rw [if_neg (by omega), if_neg (by omega), if_neg (by omega), if_pos (by omega)]
  congr 1 <;> omega

/-- The access of a lost-latch word falls on that word of the report window (R196). -/
theorem placeOf_latch (anch : BitVec 8) (k : BitVec 5) :
    placeOf anch (apertureBase anch + latchOffset k.toNat) = .report (latchOffset k.toNat) := by
  have h1 := k.isLt
  rw [placeOf_base _ _ (by unfold latchOffset; omega) (by unfold latchOffset; omega)]
  unfold placeOfOffset latchOffset
  iterate 6 rw [if_neg (by omega)]
  rw [if_pos (by omega)]

theorem latchWordAt_latch (k : BitVec 5) : latchWordAt (latchOffset k.toNat) = some k.toNat := by
  have h1 := k.isLt
  unfold latchWordAt latchOffset
  rw [if_pos (by omega)]
  congr 1
  omega

/-! ### Word 7 of a control record -/

theorem controlWord7_toNat (w : ControlWrite) (k : BitVec 8) :
    (controlWord7 w k).toNat = w.sequence.toNat * 65536 + w.spare.toNat * 256 + k.toNat := by
  unfold controlWord7
  have h1 := w.spare.isLt
  have h2 := k.isLt
  rw [BitVec.toNat_append, BitVec.toNat_append]
  rw [← Nat.shiftLeft_add_eq_or_of_lt (by omega), ← Nat.shiftLeft_add_eq_or_of_lt (by omega)]
  rw [Nat.shiftLeft_eq, Nat.shiftLeft_eq]
  omega

theorem controlWord7_kind (w : ControlWrite) (k : BitVec 8) : field (controlWord7 w k) 0 8 = k.toNat := by
  have h2 := k.isLt
  unfold field
  rw [controlWord7_toNat, Nat.shiftRight_zero]
  omega

theorem controlWord7_sequence (w : ControlWrite) (k : BitVec 8) : field (controlWord7 w k) 16 16 = w.sequence.toNat := by
  have h0 := w.sequence.isLt
  have h1 := w.spare.isLt
  have h2 := k.isLt
  unfold field
  rw [controlWord7_toNat, Nat.shiftRight_eq_div_pow]
  omega

/-- The control result of a request spelled by its command (R178). -/
theorem resultOfControl_controlWord7 (w : ControlWrite) (k : BitVec 8) (a : Answer) (now : Time) :
    resultOfControl (controlWord7 w k) a now = ⟨w.sequence, k, a.outcome, BitVec.ofNat 32 a.detail, now⟩ := by
  unfold resultOfControl
  rw [controlWord7_kind, controlWord7_sequence, BitVec.ofNat_toNat, BitVec.ofNat_toNat]
  simp

/-! ### Latches and buffers in canonical form -/

section

variable {s : State} (h : s.Canonical)
include h

theorem State.Canonical.setLatch (r : RecordWord) (l : Latch) : (s.setLatch r l).Canonical := by
  cases r <;> dsimp only [State.setLatch]
  · exact { h with imageBuffer := tableWf_store h.imageBuffer }
  · exact { h with sampleLatches := tableWf_store h.sampleLatches }
  · exact { h with positionLatches := tableWf_store h.positionLatches }
  · exact { h with controlBuffer := tableWf_store h.controlBuffer }

theorem State.Canonical.clearMark (r : RecordWord) : (s.clearMark r).Canonical := h.setLatch ..

omit h in
theorem State.Canonical.clearAll {s : State} (h : s.Canonical) (l : List RecordWord) :
    (l.foldl State.clearMark s).Canonical := by
  induction l generalizing s with
  | nil => exact h
  | cons a l ih => exact ih (h.clearMark a)

theorem State.Canonical.clearMarks (r : RecordWord) : (s.clearMarks r).Canonical := h.clearAll _

theorem State.Canonical.turnSlot (r : RecordWord) : (s.turnSlot r).Canonical := by
  cases r with
  | image slot w =>
    dsimp only [State.turnSlot]; split
    · exact h
    · exact { h.clearMarks (.image slot w) with }
  | sample => exact h
  | position => exact h
  | control => exact h

/-- A change of the port, the counts, the control result and the blocks, canonical ones. -/
theorem State.Canonical.withNet {n : Net} (hn : n.Canonical) : State.Canonical { s with net := n } := { h with net := hn }

end

/-- A word written full into its latch is read back (R29). -/
theorem latch_setLatch {s : State} (h : s.Canonical) (r : RecordWord) (l : Latch) : (s.setLatch r l).latch r = l := by
  cases r <;> dsimp only [State.setLatch, State.latch]
  · exact lookup_store_same h.imageBuffer _ _
  · exact lookup_store_same h.sampleLatches _ _
  · exact lookup_store_same h.positionLatches _ _
  · exact lookup_store_same h.controlBuffer _ _

end Sys2Proof.Machine
end

