-- ==== Sys2Proof/Laws/Collect.lean ====
section
/-! SUPPORT. What the collection of record words leaves alone: the blocks, time, the shadow, the port and the refusal list (R29 to
R32). -/

namespace Sys2Proof.Machine

/-- Two states that differ in the latches, the buffers and the remembered image slot at most. -/
structure State.Collects (s t : State) : Prop where
  rest : { s with imageBuffer := [], sampleLatches := [], positionLatches := [], controlBuffer := [], imageSlot := 0 } =
    { t with imageBuffer := [], sampleLatches := [], positionLatches := [], controlBuffer := [], imageSlot := 0 }

theorem State.Collects.refl (s : State) : s.Collects s := ⟨rfl⟩

theorem State.Collects.setLatch {s t : State} (h : s.Collects t) (r : RecordWord) (l : Latch) : s.Collects (t.setLatch r l) := by
  refine ⟨h.rest.trans ?_⟩
  cases r <;> rw [State.setLatch]

theorem State.Collects.clearAll {s t : State} (h : s.Collects t) (l : List RecordWord) :
    s.Collects (l.foldl State.clearMark t) := by
  induction l generalizing t with
  | nil => exact h
  | cons a l ih => exact ih (h.setLatch a _)

theorem State.Collects.clearMarks {s t : State} (h : s.Collects t) (r : RecordWord) : s.Collects (t.clearMarks r) := h.clearAll _

theorem State.Collects.turnSlot {s t : State} (h : s.Collects t) (r : RecordWord) : s.Collects (t.turnSlot r) := by
  cases r with
  | image slot w =>
    rw [State.turnSlot]
    split
    · exact h
    · exact ⟨(h.clearMarks (.image slot w)).rest⟩
  | sample => exact h
  | position => exact h
  | control => exact h

section

variable {s t : State} (h : s.Collects t)
include h

theorem State.Collects.net : t.net = s.net := (congrArg State.net h.rest).symm
theorem State.Collects.time : t.time = s.time := (congrArg State.time h.rest).symm
theorem State.Collects.shadow : t.shadow = s.shadow := (congrArg State.shadow h.rest).symm
theorem State.Collects.refusals : t.refusals = s.refusals := (congrArg State.refusals h.rest).symm
theorem State.Collects.refusalCount : t.refusalCount = s.refusalCount := (congrArg State.refusalCount h.rest).symm
theorem State.Collects.resetAsserted : t.resetAsserted = s.resetAsserted := (congrArg State.resetAsserted h.rest).symm
theorem State.Collects.env : t.env = s.env := by rw [State.env, State.env, h.time, h.shadow]

end

/-- A latch or buffer word written, and the port, in either order. -/
theorem setLatch_withPort (s : State) (r : RecordWord) (l : Latch) (p : Port) :
    State.setLatch { s with port := p } r l = { s.setLatch r l with port := p } := by
  cases r <;> rw [State.setLatch, State.setLatch]

theorem latch_withPort (s : State) (r : RecordWord) (p : Port) : State.latch { s with port := p } r = s.latch r := by
  cases r <;> rw [State.latch, State.latch]

theorem complete_withPort (s : State) (r : RecordWord) (p : Port) : State.complete { s with port := p } r = s.complete r := by
  simp only [State.complete, latch_withPort]

theorem clearMark_withPort (s : State) (r : RecordWord) (p : Port) :
    State.clearMark { s with port := p } r = { s.clearMark r with port := p } := by
  rw [State.clearMark, State.clearMark, latch_withPort, setLatch_withPort]

theorem clearMarks_withPort (s : State) (r : RecordWord) (p : Port) :
    State.clearMarks { s with port := p } r = { s.clearMarks r with port := p } := by
  rw [State.clearMarks, State.clearMarks]
  generalize partsOf r = l
  induction l generalizing s with
  | nil => rfl
  | cons a l ih => rw [List.foldl_cons, List.foldl_cons, clearMark_withPort, ih]

end Sys2Proof.Machine
end

