-- ==== Sys2Proof/Laws/Commands.lean ====
section
/-! SUPPORT. What the commands come to once the place, the direction and the marks of their access are known. -/

namespace Sys2Proof.Machine

section

variable {s : State} (h : s.resetAsserted = false)
include h

theorem takePlace_released (p : Place) (a : Access) : s.takePlace p a = (match p with
    | .record r => if a.write then s.writeRecord r a else { s with port := .passed a }
    | .command v word => if a.write then s.writeCommand v word a else s.readCommand v word a
    | .report off => if a.write then { s with port := .passed a } else s.readReport off a
    | .outside => { s with port := .passed a }) := by
  unfold State.takePlace; exact (if_neg (by simp [h])).trans (by cases p <;> rfl)

theorem fullRecordWrite_released (r : RecordWord) (data : Word) (m : Master) :
    s.fullRecordWrite r data m = s.writeRecord r (fullWrite s.anch (recordOffset r) data m) := by
  unfold State.fullRecordWrite; exact takePlace_released h _ _

theorem exec_partialWrite (r : RecordWord) (data : Word) (be : Enables) (m : Master) :
    exec (.partialWrite r data be m) s =
      .next (s.writeRecord r ⟨true, apertureBase s.anch + recordOffset r, be, data, m⟩) := by
  show Host.Outcome.next (s.takePlace _ _) = _
  rw [takePlace_released h]; rfl

theorem exec_nonFinalWordWrite (r : RecordWord) (data : Word) (m : Master) :
    exec (.nonFinalWordWrite r data m) s = .next (s.writeRecord r (fullWrite s.anch (recordOffset r) data m)) := by
  show Host.Outcome.next (s.fullRecordWrite ..) = _
  rw [fullRecordWrite_released h]

theorem exec_incompleteRecord (r : RecordWord) (data : Word) (m : Master) :
    exec (.incompleteRecord r data m) s = .next (s.writeRecord r (fullWrite s.anch (recordOffset r) data m)) := by
  show Host.Outcome.next (s.fullRecordWrite ..) = _
  rw [fullRecordWrite_released h]

theorem exec_commandWrite (v : BitVec 11) (w : BitVec 2) (data : Word) (be : Enables) (m : Master) :
    exec (.commandWrite v w data be m) s =
      .next (s.writeCommand v.toNat w.toNat ⟨true, apertureBase s.anch + commandOffset v.toNat w.toNat, be, data, m⟩) := by
  show Host.Outcome.next (s.takePlace _ _) = _
  rw [takePlace_released h]; rfl

theorem exec_commandRead (v : BitVec 11) (w : BitVec 2) (be : Enables) (m : Master) :
    exec (.commandRead v w be m) s =
      .next (s.readCommand v.toNat w.toNat ⟨false, apertureBase s.anch + commandOffset v.toNat w.toNat, be, 0, m⟩) := by
  show Host.Outcome.next (s.takePlace _ _) = _
  rw [takePlace_released h]; rfl

theorem exec_lostLatchRead (k : BitVec 5) (be : Enables) (m : Master) :
    exec (.lostLatchRead k be m) s = .next (State.event (fun _ n => clearLatches k.toNat n) { s with
      port := .answered ⟨false, apertureBase s.anch + latchOffset k.toNat, be, 0, m⟩ (reportWord s (latchOffset k.toNat)) }) := by
  show Host.Outcome.next (s.takePlace _ _) = _
  rw [takePlace_released h]
  dsimp only
  rw [if_neg (by simp)]
  unfold State.readReport
  rw [latchWordAt_latch]

theorem occur_released (f : Env → Net → Net) : s.occur f = s.event f := by
  unfold State.occur; rw [if_neg (by simp [h])]

end

/-- A completed record: the word passes, the record is taken, the marks are cleared (R27, R30). -/
theorem writeRecord_complete {s : State} (r : RecordWord) (data : Word) (m : Master) (hf : r.isFinal = true)
    (ht : s.turnSlot r = s) (hc : s.complete r = true) :
    s.writeRecord r (fullWrite s.anch (recordOffset r) data m) =
      State.clearMarks (State.takeRecord { s with port := .passed (fullWrite s.anch (recordOffset r) data m) } r data) r := by
  unfold State.writeRecord
  rw [ht]
  dsimp only
  rw [if_neg (by exact fun h => h rfl), hf, if_neg (by simp)]
  have : State.complete { s with port := .passed (fullWrite s.anch (recordOffset r) data m) } r = s.complete r := by
    cases r <;> rfl
  rw [this, hc]
  rfl

/-- The word that completes an image record (R10, R30). -/
theorem exec_imageRecord {s : State} {slot : BitVec 12} {w0 w1 w2 : Word} (h : s.ImageReady slot w0 w1 w2) (w3 : Word) (m : Master) :
    exec (.imageRecord slot w3 m) s = .next (s.afterRecord (.image slot 3) w3 m
      (settle s.env (takeImageRecord s.env slot.toNat w0 w1 w2 w3 s.net))) := by
  show Host.Outcome.next (s.fullRecordWrite ..) = _
  rw [fullRecordWrite_released h.released,
    writeRecord_complete _ _ _ rfl (by dsimp only [State.turnSlot]; rw [if_pos h.remembered]) h.complete]
  unfold State.afterRecord State.takeRecord State.event
  rw [← h.word0, ← h.word1, ← h.word2]
  rfl

/-- The word that completes a sample record (R30, R44). -/
theorem exec_sampleRecord {s : State} {slot : BitVec 10} {w0 : Word} (h : s.SampleReady slot w0) (w1 : Word) (m : Master) :
    exec (.sampleRecord slot w1 m) s = .next (s.afterRecord (.sample slot 1) w1 m
      (settle s.env (takeSample s.env slot.toNat w0 w1 s.net))) := by
  show Host.Outcome.next (s.fullRecordWrite ..) = _
  rw [fullRecordWrite_released h.released, writeRecord_complete _ _ _ rfl rfl h.complete]
  unfold State.afterRecord State.takeRecord State.event
  rw [← h.word0]
  rfl

/-- The word that completes a position report (R30, R141). -/
theorem exec_positionReport {s : State} {slot : BitVec 11} {w0 : Word} (h : s.PositionReady slot w0) (w1 : Word) (m : Master) :
    exec (.positionReport slot w1 m) s = .next (s.afterRecord (.position slot 1) w1 m
      (settle s.env (takePosition s.env slot.toNat w0 w1 s.net))) := by
  show Host.Outcome.next (s.fullRecordWrite ..) = _
  rw [fullRecordWrite_released h.released, writeRecord_complete _ _ _ rfl rfl h.complete]
  unfold State.afterRecord State.takeRecord State.event
  rw [← h.word0]
  rfl

/-- The word that completes a control record, whatever its bits (R30, R177, R178). -/
theorem fullRecordWrite_control {s : State} {w0 w1 w2 : Word} (h : s.ControlReady w0 w1 w2) (w7 : Word) (m : Master) :
    s.fullRecordWrite (.control 7) w7 m = State.clearMarks { s with
      port := .passed (fullWrite s.anch (recordOffset (.control 7)) w7 m)
      net := settle s.env (judgeControl s.env (field w7 0 8) w0 w1 w2 s.net).net
      controlResult := resultOfControl w7 (judgeControl s.env (field w7 0 8) w0 w1 w2 s.net) s.time } (.control 7) := by
  rw [fullRecordWrite_released h.released, writeRecord_complete _ _ _ rfl rfl h.complete]
  rw [← h.word0, ← h.word1, ← h.word2]
  rfl

/-- A request's control record: judged, its net settled, its result written (R177, R178). -/
theorem controlWrite_ready {s : State} {w0 w1 w2 : Word} (h : s.ControlReady w0 w1 w2) (w : ControlWrite) (kind : BitVec 8) :
    s.controlWrite w kind = s.afterControl w kind (judgeControl s.env kind.toNat w0 w1 w2 s.net).outcome
      (judgeControl s.env kind.toNat w0 w1 w2 s.net).detail (settle s.env (judgeControl s.env kind.toNat w0 w1 w2 s.net).net) := by
  unfold State.controlWrite
  rw [fullRecordWrite_control h, resultOfControl_controlWord7, controlWord7_kind]
  rfl

/-! ### Requests -/

/-- A control record whose judgement is known. -/
theorem controlWrite_answer {s : State} {w0 w1 w2 : Word} (h : s.ControlReady w0 w1 w2) (w : ControlWrite) (kind : BitVec 8)
    (a : Answer) (ha : judgeControl s.env kind.toNat w0 w1 w2 s.net = a) :
    s.controlWrite w kind = s.afterControl w kind a.outcome a.detail (settle s.env a.net) := by
  rw [controlWrite_ready h, ha]

/-- A control record that is refused between events leaves the blocks, ATTN judged (R177). -/
theorem controlWrite_refused {s : State} {w0 w1 w2 : Word} (h : s.ControlReady w0 w1 w2) (hs : s.net.Settled) (w : ControlWrite)
    (kind : BitVec 8) (why : ControlOutcome) (detail : Nat)
    (ha : judgeControl s.env kind.toNat w0 w1 w2 s.net = refuse s.net why detail) :
    s.controlWrite w kind = s.afterControl w kind why detail (judgeAttn s.net) := by
  rw [controlWrite_answer h w kind _ ha]
  show s.afterControl w kind why detail (settle s.env s.net) = _
  rw [settle_settled_net _ hs]

/-- A request that may be taken in the image state is handed to its owner (R177, R179). -/
theorem judgeControl_handed (e : Env) {kind : Nat} {q : Request} (hq : Request.ofCode kind = some q) (w0 w1 w2 : Word) {n : Net}
    (hl : q.needsLive = false ∨ n.live = true) : judgeControl e kind w0 w1 w2 n = handRequest e q w0 w1 w2 n := by
  unfold judgeControl; rw [hq]; dsimp only; rw [if_neg]; rcases hl with h | h <;> simp [h]

theorem noCell_of {n : Net} {k : Nat} (h : k < 64) (ht : (n.cell k).tag = .adopted) : noCell n k = false := by
  unfold noCell Config.cellCount; simp [ht, h]

theorem noCell_unless {n : Net} {k : Nat} (h : 64 ≤ k ∨ (n.cell k).tag ≠ .adopted) : noCell n k = true := by
  unfold noCell Config.cellCount; rcases h with h | h <;> simp [h]

theorem noValve_of {n : Net} {v : Nat} (h : v < 2048) (ht : (n.valve v).tag = .adopted) : noValve n v = false := by
  unfold noValve Config.valveCount; simp [ht, h]

theorem noValve_unless {n : Net} {v : Nat} (h : 2048 ≤ v ∨ (n.valve v).tag ≠ .adopted) : noValve n v = true := by
  unfold noValve Config.valveCount; rcases h with h | h <;> simp [h]

/-- The lowest FREE incident, or that there is none (R77, R85). -/
theorem lowestFree_spec (n : Net) : (lowestFree n = none ∧ ∀ i, i < 8 → (n.incident i).state ≠ .free) ∨
    ∃ i, lowestFree n = some i ∧ i < 8 ∧ (n.incident i).state = .free ∧ ∀ j, j < i → (n.incident j).state ≠ .free := by
  cases h : lowestFree n with
  | none =>
    refine .inl ⟨rfl, fun i hi => ?_⟩
    have := List.find?_eq_none.mp h i (by unfold incidentIds Config.incidentCount; simp [hi])
    simpa using this
  | some i =>
    obtain ⟨h1, as, bs, h2, h3⟩ := List.find?_eq_some_iff_append.mp h
    have hp : incidentIds.Pairwise (· < ·) := by unfold incidentIds; exact List.pairwise_lt_range
    have hm : ∀ j, j ∈ incidentIds ↔ j < 8 := by intro j; unfold incidentIds Config.incidentCount; simp
    refine .inr ⟨i, rfl, (hm i).mp (by rw [h2]; simp), by simpa using h1, fun j hj => ?_⟩
    have hj8 := (hm j).mpr (by have := (hm i).mp (by rw [h2]; simp); omega)
    rw [h2] at hp hj8
    rw [List.mem_append] at hj8
    rcases hj8 with hj8 | hj8
    · simpa using h3 j hj8
    · rw [List.mem_cons] at hj8
      rcases hj8 with rfl | hj8
      · omega
      · have := (List.pairwise_cons.mp (List.pairwise_append.mp hp).2.1).1 j hj8
        omega

theorem lowestFree_at {n : Net} {i : Nat} (h : i < 8) (h1 : (n.incident i).state = .free)
    (h2 : ∀ j, j < i → (n.incident j).state ≠ .free) : lowestFree n = some i := by
  rcases lowestFree_spec n with ⟨_, h'⟩ | ⟨k, hk, _, h4, h5⟩
  · exact absurd h1 (h' i h)
  · rw [hk]
    rcases Nat.lt_trichotomy i k with h' | h' | h'
    · exact absurd h1 (h5 i h')
    · rw [h']
    · exact absurd h4 (h2 k h')

theorem lowestFree_none {n : Net} (h1 : ∀ i, i < 8 → (n.incident i).state ≠ .free) : lowestFree n = none := by
  rcases lowestFree_spec n with ⟨h, _⟩ | ⟨k, _, h3, h4, _⟩
  · exact h
  · exact absurd h4 (h1 k h3)

end Sys2Proof.Machine
end

