-- ==== Sys2Proof/Laws/Enumerates.lean ====
section
/-! SUPPORT. Lists that name the ids with a property in ascending order: there is one at most, and a table gives it. -/

namespace Sys2Proof.Machine

/-- Two ascending lists of the same ids are one list. -/
theorem Enumerates.unique {p : Nat → Prop} {l m : List Nat} (hl : Enumerates l p) (hm : Enumerates m p) : l = m := by
  obtain ⟨hl, el⟩ := hl
  obtain ⟨hm, em⟩ := hm
  have same : ∀ k, k ∈ l ↔ k ∈ m := fun k => (el k).trans (em k).symm
  clear el em
  induction l generalizing m with
  | nil =>
    cases m with
    | nil => rfl
    | cons b m => exact nomatch (same b).2 (List.mem_cons_self ..)
  | cons a l ih =>
    cases m with
    | nil => exact nomatch (same a).1 (List.mem_cons_self ..)
    | cons b m =>
      obtain ⟨ha, hl'⟩ := List.pairwise_cons.1 hl
      obtain ⟨hb, hm'⟩ := List.pairwise_cons.1 hm
      have hab : a = b := by
        have h1 := (same a).1 (List.mem_cons_self ..)
        have h2 := (same b).2 (List.mem_cons_self ..)
        rcases List.mem_cons.1 h1 with h | h
        · exact h
        · rcases List.mem_cons.1 h2 with h' | h'
          · exact h'.symm
          · exact absurd (ha b h') (Nat.not_lt.2 (Nat.le_of_lt (hb a h)))
      subst hab
      refine congrArg (a :: ·) (ih hl' hm' fun k => ⟨fun h => ?_, fun h => ?_⟩)
      · exact (List.mem_cons.1 ((same k).1 (List.mem_cons_of_mem _ h))).resolve_left (Nat.ne_of_gt (ha k h))
      · exact (List.mem_cons.1 ((same k).2 (List.mem_cons_of_mem _ h))).resolve_left (Nat.ne_of_gt (hb k h))

/-- The ids whose entries meet `p`, when the device-reset entry does not. -/
theorem idsWhere_enumerates {α : Type} [DecidableEq α] {d : α} {p : Nat → α → Bool} {t : Table α} (h : tableWf d t = true)
    (hp : ∀ k, p k d = false) : Enumerates (idsWhere p t) fun k => p k (lookup d t k) = true :=
  ⟨(idsWhere_rises (tableWf_iff.1 h).1).1, mem_idsWhere h hp⟩

/-- The same for a decidable property. -/
theorem enumerates_of {α : Type} [DecidableEq α] {d : α} {q : Nat → α → Prop} [∀ k x, Decidable (q k x)] {t : Table α} {l : List Nat}
    (h : tableWf d t = true) (hd : ∀ k, ¬ q k d) (hl : idsWhere (fun k x => decide (q k x)) t = l) :
    Enumerates l fun k => q k (lookup d t k) := by
  have := idsWhere_enumerates (p := fun k x => decide (q k x)) h fun k => decide_eq_false (hd k)
  exact hl ▸ ⟨this.1, fun k => (this.2 k).trans decide_eq_true_iff⟩

/-- The entries that meet `p`, read back by their ids. -/
theorem filter_entries {α : Type} [DecidableEq α] {d : α} {p : Nat → α → Bool} {t : Table α} (h : tableWf d t = true) :
    (t.filter fun kv => p kv.1 kv.2) = (idsWhere p t).map fun k => (k, lookup d t k) := by
  unfold idsWhere
  rw [List.map_map]
  refine (List.map_id _).symm.trans (List.map_congr_left fun kv hkv => ?_)
  have := lookup_of_mem (d := d) (tableWf_iff.1 h).1 (List.mem_filter.1 hkv).1
  exact Prod.ext rfl this.2.symm

end Sys2Proof.Machine
end

