-- ==== Sys2Proof/Laws/Expiries.lean ====
section
/-! SUPPORT. What the expiries at a value of the counter do, one after another (R40; log 4). -/

namespace Sys2Proof.Machine

/-- What every expiry keeps, all of them keep. -/
theorem State.expireAll_induction {P : State → Prop} (step : ∀ (t : State) (x : Expiry), P t → P (t.expire x)) {s : State} (h : P s) :
    P s.expireAll := by
  unfold State.expireAll
  generalize dueExpiries s.time s.net = l
  induction l generalizing s with
  | nil => exact h
  | cons x l ih => exact ih (step s x h)

theorem State.expireAll_of_none {s : State} (h : dueExpiries s.time s.net = []) : s.expireAll = s := by
  unfold State.expireAll; rw [h]; rfl

theorem State.expire_net {s : State} (h : s.resetAsserted = false) (x : Expiry) :
    s.expire x = { s with net := settle s.env (x.take s.env s.net) } := by
  unfold State.expire State.occur; rw [if_neg (by simp [h])]; rfl

theorem Keeps.expiry {m n : Net} (h : Keeps m n) (x : Expiry) (e : Env) : Keeps m (x.take e n) := by
  cases x <;> dsimp only [Expiry.take]
  · exact h.loseSensor ..
  · exact h.tripSensor ..
  · exact h.tripCell ..
  · exact h.expireHold ..
  · exact h.expirePickup ..
  · exact h.expireProgress ..
  · exact h.expireDeadline ..

theorem Keeps.expire {m : Net} {s : State} (h : Keeps m s.net) (x : Expiry) : Keeps m (s.expire x).net := by
  unfold State.expire State.occur; split
  · exact h
  · exact (h.expiry x s.env).settle s.env

theorem Keeps.expireAll {m : Net} {s : State} (h : Keeps m s.net) : Keeps m s.expireAll.net :=
  State.expireAll_induction (P := fun t => Keeps m t.net) (fun _ x h => h.expire x) h

/-- The list of the expiries at a value of the counter holds the timers that expire there and no others. -/
theorem mem_dueExpiries {n : Net} (c : n.Canonical) (now : Time) (x : Expiry) : x ∈ dueExpiries now n ↔ x.dueAt now n := by
  have hs := fun p hp => mem_idsWhere (p := p) c.sensors hp
  have hc := fun p hp => mem_idsWhere (p := p) c.cells hp
  have hi := fun p hp => mem_idsWhere (p := p) c.incidents hp
  have hv := fun p hp => mem_idsWhere (p := p) c.valves hp
  unfold dueExpiries
  simp only [List.mem_append, List.mem_map]
  cases x <;> simp only [Expiry.dueAt, reduceCtorEq, and_false, exists_false, or_false, false_or, Expiry.sensorLoss.injEq,
    Expiry.sensorPersistence.injEq, Expiry.cellPersistence.injEq, Expiry.hold.injEq, Expiry.pickup.injEq, Expiry.progress.injEq,
    Expiry.deadline.injEq, exists_eq_right]
  · exact hs _ (fun _ => rfl) _
  · exact hs _ (fun _ => rfl) _
  · exact hc _ (fun _ => rfl) _
  · exact hi _ (fun _ => rfl) _
  · exact hv _ (fun _ => rfl) _
  · exact hv _ (fun _ => rfl) _
  · exact hv _ (fun _ => rfl) _

end Sys2Proof.Machine
end

