-- ==== Sys2Proof/Laws/Frame.lean ====
section
/-! SUPPORT. What no access and no event of the part changes: the queue of commands, the reset pin, the straps and the time counter. -/

namespace Sys2Proof.Machine

/-- The fields that only the reset commands, time and the sender of commands write. -/
structure State.Outer (s t : State) : Prop where
  pending : t.pending = s.pending
  resetAsserted : t.resetAsserted = s.resetAsserted
  anch : t.anch = s.anch
  linkid : t.linkid = s.linkid
  time : t.time = s.time

theorem State.Outer.refl (s : State) : s.Outer s := ⟨rfl, rfl, rfl, rfl, rfl⟩

theorem State.Outer.trans {a b c : State} (h : a.Outer b) (h' : b.Outer c) : a.Outer c :=
  ⟨h'.1.trans h.1, h'.2.trans h.2, h'.3.trans h.3, h'.4.trans h.4, h'.5.trans h.5⟩

section

variable {s t : State} (h : s.Outer t)
include h

/-- A state that differs from `t` in other fields. -/
theorem State.Outer.same {t' : State} (h1 : t'.pending = t.pending) (h2 : t'.resetAsserted = t.resetAsserted)
    (h3 : t'.anch = t.anch) (h4 : t'.linkid = t.linkid) (h5 : t'.time = t.time) : s.Outer t' :=
  ⟨h1.trans h.1, h2.trans h.2, h3.trans h.3, h4.trans h.4, h5.trans h.5⟩

theorem State.Outer.net (n : Net) : s.Outer { t with net := n } := h.same rfl rfl rfl rfl rfl

theorem State.Outer.event (f : Env → Net → Net) : s.Outer (t.event f) := by
  unfold State.event; exact h.net _

theorem State.Outer.setLatch (r : RecordWord) (l : Latch) : s.Outer (t.setLatch r l) := by
  cases r <;> exact h.same rfl rfl rfl rfl rfl

theorem State.Outer.clearMark (r : RecordWord) : s.Outer (t.clearMark r) := h.setLatch ..

theorem State.Outer.clearMarks (r : RecordWord) : s.Outer (t.clearMarks r) := by
  unfold State.clearMarks
  generalize partsOf r = l
  induction l generalizing t with
  | nil => exact h
  | cons a l ih => exact ih (h.clearMark a)

theorem State.Outer.turnSlot (r : RecordWord) : s.Outer (t.turnSlot r) := by
  cases r with
  | image slot w =>
    dsimp only [State.turnSlot]; split
    · exact h
    · have h' := h.clearMarks (.image slot w)
      exact ⟨h'.1, h'.2, h'.3, h'.4, h'.5⟩
  | sample => exact h
  | position => exact h
  | control => exact h

theorem State.Outer.takeRecord (r : RecordWord) (w : Word) : s.Outer (t.takeRecord r w) := by
  cases r <;> dsimp only [State.takeRecord]
  · exact h.event _
  · exact h.event _
  · exact h.event _
  · unfold State.takeControl; dsimp only
    generalize resultOfControl _ _ _ = q
    generalize settle _ _ = n
    exact h.same rfl rfl rfl rfl rfl

theorem State.Outer.port (p : Port) : s.Outer { t with port := p } := ⟨h.1, h.2, h.3, h.4, h.5⟩

theorem State.Outer.writeRecord (r : RecordWord) (a : Access) : s.Outer (t.writeRecord r a) := by
  have h' := (h.turnSlot r).port (.passed a)
  unfold State.writeRecord
  dsimp only
  split
  · refine State.Outer.event ?_ _
    split
    · exact h'
    · exact h'.clearMark r
  · split
    · exact h'.setLatch ..
    · split
      · exact (h'.takeRecord ..).clearMarks r
      · exact (h'.clearMarks r).event _

theorem State.Outer.writeCommand (v w : Nat) (a : Access) : s.Outer (t.writeCommand v w a) := by
  unfold State.writeCommand
  split
  · unfold State.refuseWrite; dsimp only; split
    · exact h.same rfl rfl rfl rfl rfl
    · refine State.Outer.event ?_ _; exact h.same rfl rfl rfl rfl rfl
  · unfold State.passWrite; dsimp only; split
    · refine State.Outer.event ?_ _; exact h.same rfl rfl rfl rfl rfl
    · exact h.same rfl rfl rfl rfl rfl

theorem State.Outer.readCommand (v w : Nat) (a : Access) : s.Outer (t.readCommand v w a) := by
  unfold State.readCommand
  dsimp only
  split
  · exact h.port _
  · split
    · exact (h.port _).event _
    · exact h.port _

theorem State.Outer.readReport (off : Nat) (a : Access) : s.Outer (t.readReport off a) := by
  unfold State.readReport
  dsimp only
  split
  · exact (h.port _).event _
  · exact h.port _

/-- An access, wherever it falls, leaves the queue, the reset pin, the straps and the time. -/
theorem State.Outer.takePlace (p : Place) (a : Access) : s.Outer (t.takePlace p a) := by
  unfold State.takePlace
  split
  · exact h.port _
  · split
    · split
      · exact h.writeRecord ..
      · exact h.port _
    · split
      · exact h.writeCommand ..
      · exact h.readCommand ..
    · split
      · exact h.port _
      · exact h.readReport ..
    · exact h.port _

theorem State.Outer.controlWrite (w : ControlWrite) (kind : BitVec 8) : s.Outer (t.controlWrite w kind) := by
  unfold State.controlWrite State.fullRecordWrite; exact h.takePlace _ _

/-- An event of the part itself leaves them too. -/
theorem State.Outer.occur (f : Env → Net → Net) : s.Outer (t.occur f) := by
  unfold State.occur
  split
  · exact h
  · exact h.event f

/-- The expiry of a timer leaves them. -/
theorem State.Outer.expire (x : Expiry) : s.Outer (t.expire x) := h.occur _

/-- The expiries at a value of the counter leave them. -/
theorem State.Outer.expireAll : s.Outer t.expireAll := by
  unfold State.expireAll
  generalize dueExpiries t.time t.net = l
  induction l generalizing t with
  | nil => exact h
  | cons x l ih => exact ih (h.expire x)

end

/-- What a command leaves of them when it is none of the three that are about them. -/
theorem exec_outer (c : Instr) (s : State) (h1 : c ≠ .resetNAssert) (h2 : ∀ a l, c ≠ .resetNRelease a l)
    (h3 : c ≠ .timeCounterAdvance) : ∃ t, exec c s = .next t ∧ s.Outer t := by
  cases c
  case resetNAssert => exact absurd rfl h1
  case resetNRelease a l => exact absurd rfl (h2 a l)
  case timeCounterAdvance => exact absurd rfl h3
  all_goals unfold exec
  all_goals first
    | exact ⟨_, rfl, (State.Outer.refl s).takePlace _ _⟩
    | exact ⟨_, rfl, (State.Outer.refl s).controlWrite _ _⟩
    | exact ⟨_, rfl, (State.Outer.refl s).occur _⟩

end Sys2Proof.Machine
end

