-- ==== Sys2Proof/Laws/Notices.lean ====
section
/-! SUPPORT. Sensor notices: ascending lists without repeats, and the sensors that a notice of masking concerns (R58, R59). -/

namespace Sys2Proof.Machine

theorem mem_insertAsc (k u : Nat) (l : List Nat) : u ∈ insertAsc k l ↔ u = k ∨ u ∈ l := by
  induction l with
  | nil => simp [insertAsc]
  | cons x l ih =>
    unfold insertAsc
    split
    · simp
    · split
      · next h => subst h; simp
      · simp [ih]; grind

theorem insertAsc_rises {k : Nat} {l : List Nat} (h : l.Pairwise (· < ·)) : (insertAsc k l).Pairwise (· < ·) := by
  induction l with
  | nil => simp [insertAsc]
  | cons x l ih =>
    obtain ⟨hx, hl⟩ := List.pairwise_cons.1 h
    unfold insertAsc
    split
    · next hk =>
      refine List.pairwise_cons.2 ⟨fun y hy => ?_, h⟩
      rcases List.mem_cons.1 hy with rfl | hy
      · exact hk
      · exact Nat.lt_trans hk (hx y hy)
    · split
      · exact h
      · next h1 h2 =>
        refine List.pairwise_cons.2 ⟨fun y hy => ?_, ih hl⟩
        rcases (mem_insertAsc ..).1 hy with rfl | hy
        · omega
        · exact hx y hy

theorem mem_insertAll (ks l : List Nat) (u : Nat) : u ∈ insertAll ks l ↔ u ∈ ks ∨ u ∈ l := by
  unfold insertAll
  induction ks generalizing l with
  | nil => simp
  | cons k ks ih => simp [ih, mem_insertAsc]; grind

theorem insertAll_rises (ks : List Nat) {l : List Nat} (h : l.Pairwise (· < ·)) : (insertAll ks l).Pairwise (· < ·) := by
  unfold insertAll
  induction ks generalizing l with
  | nil => exact h
  | cons k ks ih => exact ih (insertAsc_rises h)

/-- A sensor has a notice pending after a notice is given for some: it is one of them, or it had one. -/
theorem mem_noteSensors (ids : List Nat) (n : Net) (j : Nat) :
    j ∈ (noteSensors ids n).agenda.sensors ↔ j ∈ ids ∨ j ∈ n.agenda.sensors := mem_insertAll ..

/-- The sensors sited at some nodes and pipes are the ADOPTED ones whose site is one of them, by their kind (R59). -/
theorem mem_sensorsSited {n : Net} (c : n.Canonical) (nodes pipes : List Nat) (j : Nat) :
    j ∈ sensorsSited n nodes pipes ↔ (n.sensor j).tag = .adopted ∧
      (((n.sensor j).kind = .pressure ∧ (n.sensor j).site ∈ nodes) ∨ ((n.sensor j).kind = .flow ∧ (n.sensor j).site ∈ pipes)) := by
  unfold sensorsSited
  rw [mem_idsWhere c.sensors (fun _ => rfl)]
  change (decide ((n.sensor j).tag = .adopted) && (match (n.sensor j).kind with
    | .pressure => decide ((n.sensor j).site ∈ nodes)
    | .flow => decide ((n.sensor j).site ∈ pipes))) = true ↔ _
  generalize n.sensor j = x
  cases hk : x.kind <;> simp

end Sys2Proof.Machine
end

