-- ==== Sys2Proof/Laws/Report.lean ====
section
/-! SUPPORT. What a field of a packed page word shows (R191), and which page word an offset of the report window reads (R194, R196). -/

namespace Sys2Proof.Machine

theorem packFrom_eq_shift (lo : Nat) (fs : List (Nat × Nat)) : packFrom lo fs = packFrom 0 fs * 2 ^ lo := by
  induction fs generalizing lo with
  | nil => simp [packFrom]
  | cons f fs ih =>
    obtain ⟨w, v⟩ := f
    rw [packFrom, packFrom, ih (lo + w), ih (0 + w), Nat.shiftLeft_eq, Nat.add_mul, Nat.mul_assoc, Nat.zero_add,
      Nat.shiftLeft_zero, ← Nat.pow_add, Nat.add_comm w lo]

/-- The fields from the `k`-th on stand above the widths of those before it. -/
theorem packFrom_drop (fs : List (Nat × Nat)) (k : Nat) :
    packFrom 0 fs / 2 ^ ((fs.take k).map Prod.fst).sum = packFrom 0 (fs.drop k) := by
  induction k generalizing fs with
  | zero => simp
  | succ k ih =>
    cases fs with
    | nil => simp [packFrom]
    | cons f fs =>
      obtain ⟨w, v⟩ := f
      rw [List.take_succ_cons, List.map_cons, List.sum_cons, List.drop_succ_cons, ← ih, Nat.pow_add, ← Nat.div_div_eq_div_mul]
      congr 1
      rw [packFrom, packFrom_eq_shift (0 + w), Nat.zero_add, Nat.shiftLeft_zero, Nat.add_mul_div_right _ _ (Nat.two_pow_pos w),
        Nat.div_eq_of_lt (Nat.mod_lt _ (Nat.two_pow_pos w)), Nat.zero_add]

/-- The `k`-th field of a packed word, at the place that the widths before it give. -/
theorem field_pack {fs : List (Nat × Nat)} (k : Nat) {lo w v : Nat} (hk : fs[k]? = some (w, v))
    (hlo : ((fs.take k).map Prod.fst).sum = lo) (h32 : lo + w ≤ 32) : field (pack fs) lo w = v % 2 ^ w := by
  unfold field pack
  rw [BitVec.toNat_ofNat, Nat.shiftRight_eq_div_pow]
  have h : packFrom 0 fs % 2 ^ 32 / 2 ^ lo % 2 ^ w = packFrom 0 fs / 2 ^ lo % 2 ^ w := by
    rw [show (32 : Nat) = lo + (32 - lo) by omega, Nat.pow_add, Nat.mod_mul_right_div_self,
      Nat.mod_mod_of_dvd _ (Nat.pow_dvd_pow 2 (by omega))]
  rw [h, ← hlo, packFrom_drop]
  obtain ⟨hl, hv⟩ := List.getElem?_eq_some_iff.1 hk
  rw [List.drop_eq_getElem_cons hl, hv]
  rw [packFrom, packFrom_eq_shift (0 + w), Nat.zero_add, Nat.shiftLeft_zero, Nat.add_mul_mod_self_right, Nat.mod_mod]

/-- A packed word shows its fields from any of them on. -/
theorem showsFrom_pack (pre fs : List (Nat × Nat)) (h32 : ((pre ++ fs).map Prod.fst).sum ≤ 32) :
    ShowsFrom (pack (pre ++ fs)) (pre.map Prod.fst).sum (fs.map fun f => (f.1, f.2 % 2 ^ f.1)) := by
  induction fs generalizing pre with
  | nil =>
    rw [List.append_nil] at h32 ⊢
    have h := packFrom_drop pre pre.length
    rw [List.take_length, List.drop_length] at h
    show BitVec.toNat (pack pre) / _ = 0
    unfold pack
    have hd := Nat.mod_mul_right_div_self (packFrom 0 pre) (2 ^ (pre.map Prod.fst).sum) (2 ^ (32 - (pre.map Prod.fst).sum))
    rw [← Nat.pow_add, show (pre.map Prod.fst).sum + (32 - (pre.map Prod.fst).sum) = 32 by omega] at hd
    rw [BitVec.toNat_ofNat, hd, h]
    exact Nat.zero_mod _
  | cons f fs ih =>
    obtain ⟨w, v⟩ := f
    have hs : (pre.map Prod.fst).sum + w ≤ 32 := by
      have h := h32
      rw [List.map_append, List.sum_append, List.map_cons, List.sum_cons] at h
      omega
    refine ⟨field_pack pre.length (by simp) (by simp) hs, ?_⟩
    have h := ih (pre ++ [(w, v)]) (by simpa using h32)
    simpa using h

/-- A packed word shows its fields, each reduced to its width. -/
theorem shows_pack {fs gs : List (Nat × Nat)} (h32 : (fs.map Prod.fst).sum ≤ 32)
    (h : fs.map (fun f => (f.1, f.2 % 2 ^ f.1)) = gs) : Shows (pack fs) gs := h ▸ showsFrom_pack [] fs h32

/-- The `k`-th field of a packed word when it is one bit. -/
theorem flagBit_pack {fs : List (Nat × Nat)} (k : Nat) {lo : Nat} {b : Bool} (hk : fs[k]? = some (1, bit b))
    (hlo : ((fs.take k).map Prod.fst).sum = lo) (h32 : lo + 1 ≤ 32) : flagBit (pack fs) lo = b := by
  have h := field_pack k hk hlo h32
  unfold field at h
  unfold flagBit
  rw [BitVec.getLsbD, Nat.testBit_eq_decide_div_mod_eq]
  rw [Nat.shiftRight_eq_div_pow, Nat.pow_one] at h
  rw [h]
  cases b <;> rfl

/-- The `k`-th field when its value fits its width. -/
theorem field_pack_fits {fs : List (Nat × Nat)} (k : Nat) {lo w v : Nat} (hk : fs[k]? = some (w, v))
    (hlo : ((fs.take k).map Prod.fst).sum = lo) (h32 : lo + w ≤ 32) (hv : v < 2 ^ w) : field (pack fs) lo w = v := by
  rw [field_pack k hk hlo h32, Nat.mod_eq_of_lt hv]

/-- A set of numbers below 8 shows bit n for n. -/
theorem setField_testBit (l : List Nat) {i : Nat} (h : i < 8) : (setField l).testBit i = decide (i ∈ l) := by
  have hb : ((List.range 8).map fun k => (1, bit (decide (k ∈ l)))) =
      (List.range 8).map fun k => (1, if decide (k ∈ l) then 1 else 0) := rfl
  unfold setField
  rw [hb, packFrom_bits]
  simp [h]

/-- A bit of the `k`-th field, at its place in the word. -/
theorem flagBit_pack_field {fs : List (Nat × Nat)} (k : Nat) {lo w v : Nat} (hk : fs[k]? = some (w, v))
    (hlo : ((fs.take k).map Prod.fst).sum = lo) (h32 : lo + w ≤ 32) {i : Nat} (hi : i < w) :
    flagBit (pack fs) (lo + i) = v.testBit i := by
  have h : flagBit (pack fs) (lo + i) = (field (pack fs) lo w).testBit i := by
    unfold flagBit field
    rw [Nat.testBit_mod_two_pow, Nat.testBit_shiftRight]
    simp [hi, BitVec.getLsbD]
  rw [h, field_pack k hk hlo h32, Nat.testBit_mod_two_pow]
  simp [hi]

/-! ### The word at an offset -/

theorem reportWord_summary (s : State) {k : Nat} (h : k < 128) :
    reportWord s (0x20000 + 4 * k) = (summaryPage s).getD k 0 := by
  unfold reportWord; rw [if_pos (by omega)]; congr 1; omega

theorem reportWord_refusal (s : State) {k : Nat} (h : k < 48) :
    reportWord s (0x20200 + 4 * k) = (refusalPage s).getD k 0 := by
  unfold reportWord; rw [if_neg (by omega), if_pos (by omega)]; congr 1; omega

theorem reportWord_incident (s : State) {i k : Nat} (hi : i < 8) (h : k < 80) :
    reportWord s (0x20400 + 320 * i + 4 * k) = (incidentPage s i).getD k 0 := by
  unfold reportWord
  repeat rw [if_neg (by omega)]
  rw [if_pos (by omega), show (0x20400 + 320 * i + 4 * k - 0x20400) / 320 = i by omega]; congr 1; omega

theorem reportWord_cell (s : State) {i k : Nat} (hi : i < 64) (h : k < 16) :
    reportWord s (0x20E00 + 64 * i + 4 * k) = (cellPage s i).getD k 0 := by
  unfold reportWord
  repeat rw [if_neg (by omega)]
  rw [if_pos (by omega), show (0x20E00 + 64 * i + 4 * k - 0x20E00) / 64 = i by omega]; congr 1; omega

theorem reportWord_sensor (s : State) {i k : Nat} (hi : i < 1024) (h : k < 10) :
    reportWord s (0x21E00 + 40 * i + 4 * k) = (sensorPage s i).getD k 0 := by
  unfold reportWord
  repeat rw [if_neg (by omega)]
  rw [if_pos (by omega), show (0x21E00 + 40 * i + 4 * k - 0x21E00) / 40 = i by omega]; congr 1; omega

theorem reportWord_valve (s : State) {i k : Nat} (hi : i < 2048) (h : k < 10) :
    reportWord s (0x2BE00 + 40 * i + 4 * k) = (valvePage s i).getD k 0 := by
  unfold reportWord
  repeat rw [if_neg (by omega)]
  rw [if_pos (by omega), show (0x2BE00 + 40 * i + 4 * k - 0x2BE00) / 40 = i by omega]; congr 1; omega

/-! ### Entries of a page -/

theorem getD_append_left {l l' : List Word} {k : Nat} (h : k < l.length) : (l ++ l').getD k 0 = l.getD k 0 := by
  rw [List.getD_eq_getElem?_getD, List.getElem?_append_left h, List.getD_eq_getElem?_getD]

theorem getD_append_right {l l' : List Word} {m : Nat} (h : l.length = m) (k : Nat) : (l ++ l').getD (m + k) 0 = l'.getD k 0 := by
  rw [List.getD_eq_getElem?_getD, List.getElem?_append_right (by omega), List.getD_eq_getElem?_getD, h, Nat.add_sub_cancel_left]

/-- Word `j` of the `k`-th entry of entries of `m` words each. -/
theorem getD_flatMap {α : Type} {f : α → List Word} {m : Nat} (hf : ∀ a, (f a).length = m) {l : List α} {k : Nat} {a : α}
    (h : l[k]? = some a) {j : Nat} (hj : j < m) : (l.flatMap f).getD (m * k + j) 0 = (f a).getD j 0 := by
  induction l generalizing k with
  | nil => cases h
  | cons b l ih =>
    rw [List.flatMap_cons]
    cases k with
    | zero =>
      cases h
      rw [Nat.mul_zero, Nat.zero_add, getD_append_left (by rw [hf]; exact hj)]
    | succ k => rw [Nat.mul_succ, Nat.add_comm (m * k) m, Nat.add_assoc, getD_append_right (hf b), ih h]

/-- Beyond the last entry of entries of `m` words each. -/
theorem getD_flatMap_none {α : Type} {f : α → List Word} {m : Nat} (hf : ∀ a, (f a).length = m) {l : List α} {k : Nat}
    (h : l[k]? = none) (j : Nat) : (l.flatMap f).getD (m * k + j) 0 = 0 := by
  have hl : (l.flatMap f).length = m * l.length := by
    rw [List.length_flatMap, List.map_congr_left (fun a _ => hf a), List.map_const', List.sum_replicate_nat, Nat.mul_comm]
  rw [List.getElem?_eq_none_iff] at h
  rw [List.getD_eq_getElem?_getD, List.getElem?_eq_none (by rw [hl]; exact Nat.le_add_right_of_le (Nat.mul_le_mul_left m h))]
  rfl

theorem padWords_getD {len k : Nat} (l : List Word) (h : k < len) : (padWords len l).getD k 0 = l.getD k 0 := by
  simp [padWords, h]

theorem pairWords_getD {count k : Nat} (ids : List Nat) (h : k < count) :
    (pairWords count ids).getD k 0 = pack [(16, ids.getD (2 * k) 0), (16, ids.getD (2 * k + 1) 0)] := by
  simp [pairWords, h]

/-- Word `j` of cause `k` on the summary page. -/
theorem summaryPage_cause (s : State) {k j : Nat} (hk : k < 16) (hj : j < 4) :
    (summaryPage s).getD (28 + 4 * k + j) 0 = (causeWords (s.net.cause k)).getD j 0 := by
  have h : causeIds[k]? = some k := by unfold causeIds; simp [hk]
  rw [← getD_flatMap (m := 4) (f := fun k => causeWords (s.net.cause k)) (fun _ => rfl) h hj]
  rw [List.getD_eq_getElem?_getD, List.getD_eq_getElem?_getD, Nat.add_assoc]
  unfold summaryPage
  dsimp only
  rw [List.getElem?_append_right (Nat.le_add_right 28 _)]
  congr 2
  exact Nat.add_sub_cancel_left 28 _

/-- Word `k` of the three adoption results on the summary page. -/
theorem summaryPage_results (s : State) {k : Nat} (h : k < 9) : (summaryPage s).getD (5 + k) 0 =
    (adoptionWords s.net.topologyResult ++ (adoptionWords s.net.sensorsResult ++ adoptionWords s.net.crossResult)).getD k 0 := by
  have hl : ∀ r, (adoptionWords r).length = 3 := fun _ => rfl
  unfold summaryPage
  simp only [List.append_assoc]
  rw [show 5 + k = 2 + (3 + k) by omega, getD_append_right (m := 2) rfl, getD_append_right (m := 3) rfl,
    ← List.append_assoc (adoptionWords _), ← List.append_assoc, List.append_assoc (adoptionWords _),
    getD_append_left (by simp only [List.length_append, hl]; exact h)]

/-- The words of one of the three adoption results. -/
theorem summaryPage_result (s : State) {k : Nat} (h : k < 3) :
    (summaryPage s).getD (5 + k) 0 = (adoptionWords s.net.topologyResult).getD k 0 ∧
    (summaryPage s).getD (8 + k) 0 = (adoptionWords s.net.sensorsResult).getD k 0 ∧
    (summaryPage s).getD (11 + k) 0 = (adoptionWords s.net.crossResult).getD k 0 := by
  have hl : ∀ r, (adoptionWords r).length = 3 := fun _ => rfl
  rw [show 8 + k = 5 + (3 + k) by omega, show 11 + k = 5 + (3 + (3 + k)) by omega, summaryPage_results s (by omega),
    summaryPage_results s (by omega), summaryPage_results s (by omega)]
  refine ⟨getD_append_left (by rw [hl]; exact h), ?_, ?_⟩
  · rw [getD_append_right (hl _), getD_append_left (by rw [hl]; exact h)]
  · rw [getD_append_right (hl _), getD_append_right (hl _)]

/-- Word `j` of entry `k` of the refusal list. -/
theorem refusalPage_entry {s : State} {k : Nat} {r : Refused} (h : s.refusals[k]? = some r) {j : Nat} (hj : j < 4) :
    (refusalPage s).getD (1 + 4 * k + j) 0 = (refusalWords r).getD j 0 := by
  rw [← getD_flatMap (m := 4) (f := refusalWords) (fun _ => rfl) h hj, show 1 + 4 * k + j = 4 * k + j + 1 by omega]
  rfl

/-- The words of an incident page after the eighth: origins, pending causes, cut list and frames. -/
theorem incidentPage_tail (s : State) (i k : Nat) : (incidentPage s i).getD (8 + k) 0 =
    (padWords 8 ((s.net.incident i).origins.flatMap originWords) ++ (pairWords 4 (s.net.incident i).pendingCauses ++
      (pairWords 2 (s.net.incident i).cutList ++ padWords 56 ((s.net.incident i).frames.flatMap frameWords)))).getD k 0 := by
  unfold incidentPage
  simp only [List.append_assoc]
  exact getD_append_right rfl k

theorem padWords_length (len : Nat) (l : List Word) : (padWords len l).length = len := by simp [padWords]

theorem pairWords_length (count : Nat) (ids : List Nat) : (pairWords count ids).length = count := by simp [pairWords]

/-- Word `k` of the origins of an incident page. -/
theorem incidentPage_origins (s : State) (i : Nat) {k : Nat} (h : k < 8) :
    (incidentPage s i).getD (8 + k) 0 = ((s.net.incident i).origins.flatMap originWords).getD k 0 := by
  rw [incidentPage_tail, getD_append_left (by rw [padWords_length]; exact h), padWords_getD _ h]

/-- Word `k` of the pending causes of an incident page. -/
theorem incidentPage_causes (s : State) (i : Nat) {k : Nat} (h : k < 4) :
    (incidentPage s i).getD (16 + k) 0 = (pairWords 4 (s.net.incident i).pendingCauses).getD k 0 := by
  rw [show 16 + k = 8 + (8 + k) by omega, incidentPage_tail, getD_append_right (padWords_length 8 _),
    getD_append_left (by rw [pairWords_length]; exact h)]

/-- Word `k` of the cut list of an incident page. -/
theorem incidentPage_cut (s : State) (i : Nat) {k : Nat} (h : k < 2) :
    (incidentPage s i).getD (20 + k) 0 = (pairWords 2 (s.net.incident i).cutList).getD k 0 := by
  rw [show 20 + k = 8 + (8 + (4 + k)) by omega, incidentPage_tail, getD_append_right (padWords_length 8 _),
    getD_append_right (pairWords_length 4 _), getD_append_left (by rw [pairWords_length]; exact h)]

/-- Word `k` of the frames of an incident page; beyond them the page reads 0. -/
theorem incidentPage_frames (s : State) (i k : Nat) : (incidentPage s i).getD (22 + k) 0 =
    if k < 56 then ((s.net.incident i).frames.flatMap frameWords).getD k 0 else 0 := by
  rw [show 22 + k = 8 + (8 + (4 + (2 + k))) by omega, incidentPage_tail, getD_append_right (padWords_length 8 _),
    getD_append_right (pairWords_length 4 _), getD_append_right (pairWords_length 2 _)]
  split
  · next h => exact padWords_getD _ h
  · next h => rw [List.getD_eq_getElem?_getD, List.getElem?_eq_none (by rw [padWords_length]; omega)]; rfl

/-- The three id lists of a frame: its causes, its seeds and its boundary. -/
theorem frameWords_causes (f : Frame) {k : Nat} (h : k < 2) : (frameWords f).getD (1 + k) 0 = (pairWords 2 f.causes).getD k 0 := by
  unfold frameWords
  simp only [List.append_assoc]
  rw [getD_append_right (m := 1) rfl, getD_append_left (by rw [pairWords_length]; exact h)]

theorem frameWords_seeds (f : Frame) {k : Nat} (h : k < 2) : (frameWords f).getD (3 + k) 0 = (pairWords 2 f.seeds).getD k 0 := by
  unfold frameWords
  simp only [List.append_assoc]
  rw [show 3 + k = 1 + (2 + k) by omega, getD_append_right (m := 1) rfl, getD_append_right (pairWords_length 2 _),
    getD_append_left (by rw [pairWords_length]; exact h)]

theorem frameWords_boundary (f : Frame) {k : Nat} (h : k < 8) :
    (frameWords f).getD (5 + k) 0 = (pairWords 8 (f.boundary.map boundaryField)).getD k 0 := by
  unfold frameWords
  simp only [List.append_assoc]
  rw [show 5 + k = 1 + (2 + (2 + k)) by omega, getD_append_right (m := 1) rfl, getD_append_right (pairWords_length 2 _),
    getD_append_right (pairWords_length 2 _), getD_append_left (by rw [pairWords_length]; exact h)]

/-- Word `k` of the location of a cell page. -/
theorem cellPage_location (s : State) (c : Nat) {k : Nat} (h : k < 4) :
    (cellPage s c).getD (5 + k) 0 = (locationWords (s.net.cell c).absorbed (s.net.cell c).location).getD k 0 := by
  unfold cellPage
  simp only [List.append_assoc]
  rw [getD_append_right (m := 5) rfl, getD_append_left]
  cases (s.net.cell c).location <;> exact h

/-- Word `k` of the meters of a cell page. -/
theorem cellPage_meters (s : State) (c k : Nat) :
    (cellPage s c).getD (9 + k) 0 = (pairWords 6 ((s.net.cell c).meters.map meterField)).getD k 0 := by
  unfold cellPage
  refine getD_append_right ?_ k
  cases (s.net.cell c).location <;> rfl

end Sys2Proof.Machine
end

