-- ==== Sys2Proof/Laws/Strokes.lean ====
section
/-! SUPPORT. What the arbiter and the strokes leave alone: everything but valves, the queue, the slots and notices, and, of the valves,
every one that does not stand in the queue (R147, R150, R161). -/

namespace Sys2Proof.Machine

/-- The fields that no grant and no stop of a stroke changes; the others are blanked. -/
def Net.aside (n : Net) : Net := { n with valves := [], queue := {}, slots := [], passedOver := 0, agenda := {} }

theorem aside_setValve (n : Net) (v : Nat) (x : Valve) : (n.setValve v x).aside = n.aside := rfl

theorem aside_noteValve (v : Nat) (b : Bool) (n : Net) : (noteValve v b n).aside = n.aside := by
  unfold noteValve; split
  · rfl
  · split <;> rfl

theorem aside_grant (e : Env) (v : Nat) (n : Net) : (grant e v n).aside = n.aside := by
  unfold grant; rw [aside_noteValve]; rfl

theorem aside_grantUpTo (e : Env) (k : Nat) (n : Net) : (grantUpTo e k n).aside = n.aside := by
  induction k generalizing n with
  | zero => rfl
  | succ k ih =>
    unfold grantUpTo; split
    · split
      · rfl
      · rw [ih, aside_grant]; rfl
    · rfl

theorem aside_arbitrate (e : Env) (n : Net) : (arbitrate e n).aside = n.aside := aside_grantUpTo ..

theorem aside_vacate (e : Env) (v : Nat) (n : Net) : (vacate e v n).aside = n.aside := by
  unfold vacate; dsimp only; split
  · rw [aside_arbitrate]; rfl
  · rfl

theorem aside_joinQueue (e : Env) (v : Nat) (p : Purpose) (n : Net) : (joinQueue e v p n).aside = n.aside := by
  unfold joinQueue; dsimp only; rw [aside_arbitrate, aside_noteValve]; rfl

theorem aside_stopStroke (e : Env) (v : Nat) (n : Net) : (stopStroke e v n).aside = n.aside := by
  unfold stopStroke; rw [aside_vacate, aside_noteValve]; rfl

section

variable {n n' : Net} (h : n'.aside = n.aside)
include h

theorem aside_nodes : n'.nodes = n.nodes := (congrArg Net.nodes h :)
theorem aside_pipes : n'.pipes = n.pipes := (congrArg Net.pipes h :)
theorem aside_sensors : n'.sensors = n.sensors := (congrArg Net.sensors h :)
theorem aside_cells : n'.cells = n.cells := (congrArg Net.cells h :)
theorem aside_incidents : n'.incidents = n.incidents := (congrArg Net.incidents h :)
theorem aside_causes : n'.causes = n.causes := (congrArg Net.causes h :)
theorem aside_jobs : n'.jobs = n.jobs := (congrArg Net.jobs h :)
theorem aside_walker : n'.walker = n.walker := (congrArg Net.walker h :)
theorem aside_globals : n'.globals = n.globals := (congrArg Net.globals h :)

theorem aside_params : n'.params = n.params := by unfold Net.params; rw [aside_globals h]
theorem aside_incident (i : Nat) : n'.incident i = n.incident i := by unfold Net.incident; rw [aside_incidents h]
theorem aside_cause (k : Nat) : n'.cause k = n.cause k := by unfold Net.cause; rw [aside_causes h]
theorem aside_node (k : Nat) : n'.node k = n.node k := by unfold Net.node; rw [aside_nodes h]
theorem aside_pipe (k : Nat) : n'.pipe k = n.pipe k := by unfold Net.pipe; rw [aside_pipes h]

end

/-! ### Valves out of the queue -/

theorem mem_without {q : StrokeQueue} {u v : Nat} : u ∈ (q.without v).all ↔ u ∈ q.all ∧ u ≠ v := by
  unfold StrokeQueue.without StrokeQueue.all
  simp only [List.mem_append, List.mem_filter, bne_iff_ne]
  constructor
  · rintro ((⟨a, b⟩ | ⟨a, b⟩) | ⟨a, b⟩) <;> exact ⟨by simp [a], b⟩
  · rintro ⟨(a | a) | a, b⟩ <;> simp [a, b]

theorem firstEligible_mem {n : Net} {q : List Nat} {p : Nat} {r : Nat × Nat} (h : firstEligible n q p = some r) : r.2 ∈ q := by
  induction q generalizing p with
  | nil => cases h
  | cons v q ih =>
    unfold firstEligible at h; split at h
    · cases h; exact List.mem_cons_self ..
    · exact List.mem_cons_of_mem _ (ih h)

theorem firstEligible_eligible {n : Net} {q : List Nat} {p : Nat} {r : Nat × Nat} (h : firstEligible n q p = some r) :
    eligible n r.2 = true := by
  induction q generalizing p with
  | nil => cases h
  | cons v q ih =>
    unfold firstEligible at h; split at h
    · cases h; assumption
    · exact ih h

theorem firstEligible_none {n : Net} {q : List Nat} {p : Nat} (h : firstEligible n q p = none) (v : Nat) (hv : v ∈ q) :
    eligible n v = false := by
  induction q generalizing p with
  | nil => cases hv
  | cons u q ih =>
    unfold firstEligible at h; split at h
    · cases h
    · rcases List.mem_cons.mp hv with rfl | hv
      · exact Bool.eq_false_iff.mpr (by assumption)
      · exact ih h hv

theorem valve_noteValve (v u : Nat) (b : Bool) (n : Net) : (noteValve v b n).valve u = n.valve u := by
  unfold noteValve; split
  · rfl
  · split <;> rfl

theorem slots_noteValve (v : Nat) (b : Bool) (n : Net) : (noteValve v b n).slots = n.slots := by
  unfold noteValve; split
  · rfl
  · split <;> rfl

theorem queue_noteValve (v : Nat) (b : Bool) (n : Net) : (noteValve v b n).queue = n.queue := by
  unfold noteValve; split
  · rfl
  · split <;> rfl

theorem slots_grant (e : Env) (v : Nat) (n : Net) : (grant e v n).slots = n.slots ++ [v] := by
  unfold grant; rw [slots_noteValve]; rfl

theorem queue_grant (e : Env) (v : Nat) (n : Net) : (grant e v n).queue = n.queue.without v := by
  unfold grant; rw [queue_noteValve]; rfl

theorem Net.Canonical.grant {n : Net} (h : n.Canonical) (e : Env) (v : Nat) : (grant e v n).Canonical := by
  unfold Machine.grant noteValve
  have h' : (modValve v (fun x => x.granted n.params e.time)
    { n with queue := n.queue.without v, slots := n.slots ++ [v] }).Canonical := { h with valves := tableWf_store h.valves }
  split
  · exact h'
  · split <;> exact { h' with }

theorem valve_grant {n : Net} (h : n.Canonical) (e : Env) (v u : Nat) :
    (grant e v n).valve u = if u = v then (n.valve v).granted n.params e.time else n.valve u := by
  unfold grant; rw [valve_noteValve]
  exact lookup_store h.valves ..

/-- A valve that stands neither in the queue nor in a slot: no grant changes it. -/
structure Net.Apart (n : Net) (v : Nat) (x : Valve) : Prop where
  canonical : n.Canonical
  slot : v ∉ n.slots
  queue : v ∉ n.queue.all
  valve : n.valve v = x

theorem Net.Apart.grantUpTo {n : Net} {v : Nat} {x : Valve} (h : n.Apart v x) (e : Env) (k : Nat) :
    (grantUpTo e k n).Apart v x := by
  induction k generalizing n with
  | zero => exact h
  | succ k ih =>
    unfold Machine.grantUpTo; split
    · split
      · exact h
      · rename_i passed u hu
        have hm : u ∈ n.queue.all := firstEligible_mem hu
        have hne : v ≠ u := fun he => h.queue (he ▸ hm)
        have c' : Net.Canonical { n with passedOver := passed } := { h.canonical with }
        refine ih ⟨c'.grant e u, ?_, ?_, ?_⟩
        · rw [slots_grant]; simp [h.slot, hne]
        · rw [queue_grant, mem_without]; exact fun hq => h.queue hq.1
        · rw [valve_grant c', if_neg hne]; exact h.valve
    · exact h

theorem Net.Apart.arbitrate {n : Net} {v : Nat} {x : Valve} (h : n.Apart v x) (e : Env) : (arbitrate e n).Apart v x :=
  h.grantUpTo ..

/-- A valve that has vacated its entry and its slot stands in neither, and is otherwise as before (R150, R161). -/
theorem vacate_apart {n : Net} (h : n.Canonical) (e : Env) (v : Nat) : (vacate e v n).Apart v (n.valve v) := by
  have h' : Net.Apart { n with queue := n.queue.without v, slots := n.slots.filter (· != v) } v (n.valve v) :=
    ⟨{ h with }, by simp, by rw [mem_without]; simp, rfl⟩
  unfold vacate; dsimp only; split
  · exact h'.arbitrate e
  · exact h'

end Sys2Proof.Machine
end

