-- ==== Sys2Proof/Laws/Supply.lean ====
section
/-! SUPPORT. What a flood of the network enters (R120). -/

namespace Sys2Proof.Machine

/-- The nodes that the edges of a node newly enter: each once, none entered before, no more than there are edges. -/
theorem found_spec (p : Pass) (entered : List Nat) (l : List Edge) (new : List Nat) (hn : new.Nodup)
    (hd : ∀ x ∈ new, x ∉ entered) :
    (l.foldl (p.found entered) new).Nodup ∧ (∀ x ∈ l.foldl (p.found entered) new, x ∉ entered) ∧
    (∀ x, x ∈ l.foldl (p.found entered) new ↔
      x ∈ new ∨ (∃ d ∈ l, p.crosses d = true ∧ p.node d.far = true ∧ d.far = x ∧ x ∉ entered)) ∧
    (l.foldl (p.found entered) new).length ≤ new.length + l.length := by
  induction l generalizing new with
  | nil => exact ⟨hn, hd, fun x => by simp, by simp⟩
  | cons d l ih =>
    rw [List.foldl_cons]
    have hf : p.found entered new d =
      if p.crosses d && p.node d.far && !decide (d.far ∈ entered) && !decide (d.far ∈ new) then new ++ [d.far] else new := rfl
    by_cases hc : (p.crosses d && p.node d.far && !decide (d.far ∈ entered) && !decide (d.far ∈ new)) = true
    · rw [hf, if_pos hc]
      simp only [Bool.and_eq_true, Bool.not_eq_true', decide_eq_false_iff_not] at hc
      obtain ⟨⟨⟨h1, h2⟩, h3⟩, h4⟩ := hc
      have := ih (new ++ [d.far]) (by
        rw [List.nodup_append]; exact ⟨hn, by simp, fun a ha b hb => by simp at hb; subst hb; exact fun h => h4 (h ▸ ha)⟩) (by
        intro x hx; rcases List.mem_append.1 hx with hx | hx
        · exact hd x hx
        · simp at hx; subst hx; exact h3)
      refine ⟨this.1, this.2.1, fun x => ?_, ?_⟩
      · rw [this.2.2.1]
        simp only [List.mem_append, List.mem_cons, List.not_mem_nil, or_false, exists_eq_or_imp]
        constructor
        · rintro ((h | rfl) | h)
          · exact .inl h
          · exact .inr (.inl ⟨h1, h2, rfl, h3⟩)
          · exact .inr (.inr h)
        · rintro (h | ⟨_, _, rfl, _⟩ | h)
          · exact .inl (.inl h)
          · exact .inl (.inr rfl)
          · exact .inr h
      · have := this.2.2.2; simp at this ⊢; omega
    · rw [hf, if_neg hc]
      have := ih new hn hd
      refine ⟨this.1, this.2.1, fun x => ?_, by have := this.2.2.2; simp; omega⟩
      rw [this.2.2.1]
      simp only [List.mem_cons, exists_eq_or_imp]
      constructor
      · rintro (h | h)
        · exact .inl h
        · exact .inr (.inr h)
      · rintro (h | ⟨h1, h2, rfl, h3⟩ | h)
        · exact .inl h
        · by_cases h4 : d.far ∈ new
          · exact .inl h4
          · exact absurd (by simp [h1, h2, h3, h4]) hc
        · exact .inr h

/-- A flood from a frontier, with what is done and what stands in the frontier entered and rounds for every edge that is left: it enters
only what a pass reaches, and is closed under the edges that the pass crosses. -/
theorem flood_spec (n : Net) (p : Pass) (k : Nat) (done front : List Nat)
    (hn : (done ++ front).Nodup)
    (hsound : ∀ x ∈ done ++ front, p.Reaches n x)
    (hdone : ∀ x ∈ done, ∀ d ∈ (n.node x).edges, p.crosses d = true → p.node d.far = true → d.far ∈ done ++ front)
    (hfuel : ∀ l : List Nat, l.Nodup → (∀ x ∈ done, x ∉ l) →
      front.length + (l.map fun x => (n.node x).edges.length).sum ≤ k) :
    let reached := flood n p k front (done ++ front)
    (∀ x, x ∈ done ++ front → x ∈ reached) ∧ (∀ x ∈ reached, p.Reaches n x) ∧
    ∀ x ∈ reached, ∀ d ∈ (n.node x).edges, p.crosses d = true → p.node d.far = true → d.far ∈ reached := by
  intro reached
  subst reached
  induction k generalizing done front with
  | zero =>
    have h0 := hfuel [] List.nodup_nil (fun _ _ h => nomatch h)
    have : front = [] := by cases front with
      | nil => rfl
      | cons a l => simp at h0
    subst this
    unfold flood
    refine ⟨fun x hx => hx, hsound, ?_⟩
    simpa using hdone
  | succ k ih =>
    cases front with
    | nil =>
      unfold flood
      refine ⟨fun x hx => hx, hsound, ?_⟩
      simpa using hdone
    | cons x xs =>
      unfold flood
      dsimp only
      obtain ⟨f1, f2, f3, f4⟩ := found_spec p (done ++ x :: xs) (n.node x).edges [] List.nodup_nil (fun _ h => nomatch h)
      generalize (n.node x).edges.foldl (p.found (done ++ x :: xs)) [] = new at f1 f2 f3 f4 ⊢
      have e : done ++ x :: xs ++ new = (done ++ [x]) ++ (xs ++ new) := by simp
      have hx : p.Reaches n x := hsound x (by simp)
      rw [e]
      have := ih (done ++ [x]) (xs ++ new) (by
          rw [← e, List.nodup_append]; exact ⟨hn, f1, fun a ha b hb h => f2 b hb (h ▸ ha)⟩) (by
          rw [← e]
          intro y hy
          rcases List.mem_append.1 hy with hy | hy
          · exact hsound y hy
          · obtain ⟨d, hd, h1, h2, rfl, _⟩ := ((f3 y).1 hy).resolve_left (fun h => nomatch h)
            exact .edge x d hx hd h1 h2) (by
          intro y hy d hd h1 h2
          rw [← e]
          rcases List.mem_append.1 hy with hy | hy
          · exact List.mem_append_left _ (hdone y hy d hd h1 h2)
          · simp at hy; subst hy
            by_cases hm : d.far ∈ done ++ y :: xs
            · exact List.mem_append_left _ hm
            · exact List.mem_append_right _ ((f3 d.far).2 (.inr ⟨d, hd, h1, h2, rfl, hm⟩))) (by
          intro l hl hld
          have hxl : x ∉ l := hld x (by simp)
          have := hfuel (x :: l) (List.nodup_cons.2 ⟨hxl, hl⟩) (by
            intro y hy h
            rcases List.mem_cons.1 h with rfl | h
            · rw [List.nodup_append] at hn; exact hn.2.2 y hy y (by simp) rfl
            · exact hld y (List.mem_append_left _ hy) h)
          simp only [List.length_cons, List.map_cons, List.sum_cons, List.length_append] at this f4 ⊢
          simp at f4
          omega)
      refine ⟨fun y hy => this.1 y (by rw [← e]; exact List.mem_append_left _ hy), this.2⟩

/-- Distinct nodes have no more edges together than the table lists. -/
theorem edges_of_distinct (t : Table Node) (lo : Nat) (h : risesFrom lo t = true) : ∀ l : List Nat, l.Nodup →
    (l.map fun x => (lookup Node.atReset t x).edges.length).sum ≤ (t.map fun kv => kv.2.edges.length).sum := by
  induction t generalizing lo with
  | nil =>
    intro l _
    have : (l.map fun x => (lookup Node.atReset [] x).edges.length).sum = 0 := by
      induction l with
      | nil => rfl
      | cons a l ih => rw [List.map_cons, List.sum_cons]; rename_i hh; rw [ih (List.nodup_cons.1 hh).2]; rfl
    rw [this]; simp
  | cons kv t ih =>
    obtain ⟨k, v⟩ := kv
    intro l hl
    simp only [risesFrom, Bool.and_eq_true, decide_eq_true_eq] at h
    have hk : (lookup Node.atReset t k) = Node.atReset := lookup_of_below h.2 (Nat.lt_succ_self k)
    have key : ∀ l : List Nat, l.Nodup → (l.map fun x => (lookup Node.atReset ((k, v) :: t) x).edges.length).sum ≤
        v.edges.length + (l.map fun x => (lookup Node.atReset t x).edges.length).sum := by
      intro l
      induction l with
      | nil => intro _; simp
      | cons a l ih' =>
        intro hl
        have hl' := List.nodup_cons.1 hl
        rw [List.map_cons, List.sum_cons, List.map_cons, List.sum_cons]
        by_cases ha : k = a
        · subst ha
          rw [lookup_cons_same, hk]
          have : (l.map fun x => (lookup Node.atReset ((k, v) :: t) x).edges.length) =
              l.map fun x => (lookup Node.atReset t x).edges.length := by
            apply List.map_congr_left
            intro x hx
            rw [lookup_cons_other _ (by rintro rfl; exact hl'.1 hx)]
          rw [this]; simp [Node.atReset]
        · rw [lookup_cons_other _ ha]
          have := ih' hl'.2
          omega
    rw [List.map_cons, List.sum_cons]
    exact Nat.le_trans (key l hl) (Nat.add_le_add_left (ih _ h.2 l hl) _)

end Sys2Proof.Machine
end

