-- ==== Sys2Proof/Laws/Work.lean ====
section
/-! SUPPORT. What the job queue and the walker leave alone when jobs are queued, started and finished (R84, R103 to R105). -/

namespace Sys2Proof.Machine

/-- The fields that no queueing, start or end of a job changes; the others are blanked. -/
def Net.workless (n : Net) : Net :=
  { n with incidents := [], causes := [], jobs := [], walker := none, topologyMarker := .none, sensorsMarker := .none }

theorem workless_walker (n : Net) (w : Option Running) : Net.workless { n with walker := w } = n.workless := rfl

theorem workless_agenda (n : Net) : n.workless.agenda = n.agenda := rfl

theorem workless_setMarker (j : Job) (m : Marker) (n : Net) : (setMarker j m n).workless = n.workless := by cases j <;> rfl

theorem workless_startJob (e : Env) (j : Job) (n : Net) : (startJob e j n).workless = n.workless := by
  unfold startJob; dsimp only
  split
  · split
    · rw [workless_setMarker]; rfl
    · exact workless_setMarker ..
  · rw [workless_setMarker]; rfl

theorem workless_startFrom (e : Env) (js : List Job) (n : Net) : (startFrom e js n).workless = n.workless := by
  induction js generalizing n with
  | nil => rfl
  | cons j js ih =>
    unfold startFrom; split
    · rw [ih, workless_setMarker]
    · rw [workless_startJob]; rfl

theorem workless_startJobs (e : Env) (n : Net) : (startJobs e n).workless = n.workless := by
  unfold startJobs; split
  · rfl
  · exact workless_startFrom ..

theorem workless_queueJob (e : Env) (j : Job) (n : Net) : (queueJob e j n).workless = n.workless := by
  unfold queueJob; rw [workless_startJobs, workless_setMarker]; rfl

theorem workless_queueChecks (e : Env) (n : Net) : (queueChecks e n).workless = n.workless := by
  unfold queueChecks
  generalize incidentIds = l
  induction l generalizing n with
  | nil => rfl
  | cons i l ih =>
    rw [List.foldl_cons, ih]
    unfold queueCheck; dsimp only; split
    · exact workless_queueJob ..
    · rfl

theorem workless_finishJob (e : Env) (n : Net) : (finishJob e n).workless = n.workless := by
  unfold finishJob; rw [workless_startJobs, workless_walker, workless_queueChecks]

/-! ### The markers of the validations -/

/-- A job that is neither validation leaves both markers. -/
theorem setMarker_markers {j : Job} (m : Marker) (n : Net) :
    (j ≠ .adoptTopology → (setMarker j m n).topologyMarker = n.topologyMarker) ∧
    (j ≠ .adoptSensors → (setMarker j m n).sensorsMarker = n.sensorsMarker) := by
  cases j <;> exact ⟨fun h => by first | rfl | exact absurd rfl h, fun h => by first | rfl | exact absurd rfl h⟩

theorem startJob_markers (e : Env) {j : Job} (n : Net) :
    (j ≠ .adoptTopology → (startJob e j n).topologyMarker = n.topologyMarker) ∧
    (j ≠ .adoptSensors → (startJob e j n).sensorsMarker = n.sensorsMarker) := by
  cases j with
  | boundary i l =>
    unfold startJob; dsimp only
    split <;> exact ⟨fun _ => rfl, fun _ => rfl⟩
  | _ => exact ⟨fun h => by first | rfl | exact absurd rfl h, fun h => by first | rfl | exact absurd rfl h⟩

theorem startFrom_markers (e : Env) (js : List Job) (n : Net) :
    (.adoptTopology ∉ js → (startFrom e js n).topologyMarker = n.topologyMarker) ∧
    (.adoptSensors ∉ js → (startFrom e js n).sensorsMarker = n.sensorsMarker) := by
  induction js generalizing n with
  | nil => exact ⟨fun _ => rfl, fun _ => rfl⟩
  | cons j js ih =>
    unfold startFrom; split
    · refine ⟨fun h => ?_, fun h => ?_⟩
      · rw [(ih _).1 (fun h' => h (List.mem_cons_of_mem _ h')), (setMarker_markers _ _).1 fun h' => h (h' ▸ List.mem_cons_self ..)]
      · rw [(ih _).2 (fun h' => h (List.mem_cons_of_mem _ h')), (setMarker_markers _ _).2 fun h' => h (h' ▸ List.mem_cons_self ..)]
    · refine ⟨fun h => ?_, fun h => ?_⟩
      · exact (startJob_markers e _).1 fun h' => h (h' ▸ List.mem_cons_self ..)
      · exact (startJob_markers e _).2 fun h' => h (h' ▸ List.mem_cons_self ..)

/-- What a queued job makes of a busy walker's queue. -/
theorem queueJob_busy (e : Env) (j : Job) {n : Net} (h : n.walker.isSome = true) :
    queueJob e j n = setMarker j .queued { n with jobs := n.jobs ++ [j] } := by
  unfold queueJob startJobs
  have : (setMarker j .queued { n with jobs := n.jobs ++ [j] }).walker = n.walker := by cases j <;> rfl
  rw [this, if_pos h]

/-- On a busy walker the supply jobs that a completion calls for are appended, and nothing else of the queue changes (R84). -/
theorem queueChecks_busy (e : Env) {n : Net} (h : n.walker.isSome = true) :
    (queueChecks e n).walker = n.walker ∧ (queueChecks e n).topologyMarker = n.topologyMarker ∧
    (queueChecks e n).sensorsMarker = n.sensorsMarker ∧
    ∀ j ∈ (queueChecks e n).jobs, j ∈ n.jobs ∨ ∃ i g, j = .supply i g := by
  unfold queueChecks
  generalize incidentIds = l
  induction l generalizing n with
  | nil => exact ⟨rfl, rfl, rfl, fun j hj => .inl hj⟩
  | cons i l ih =>
    rw [List.foldl_cons]
    have hq : (queueCheck e i n).walker = n.walker ∧ (queueCheck e i n).topologyMarker = n.topologyMarker ∧
        (queueCheck e i n).sensorsMarker = n.sensorsMarker ∧
        ∀ j ∈ (queueCheck e i n).jobs, j ∈ n.jobs ∨ ∃ i g, j = .supply i g := by
      unfold queueCheck; dsimp only; split
      · rw [queueJob_busy e _ h]
        refine ⟨rfl, rfl, rfl, fun j hj => ?_⟩
        have hj' : j ∈ n.jobs ++ [.supply i (n.incident i).generation] := hj
        rcases List.mem_append.mp hj' with hj' | hj'
        · exact .inl hj'
        · exact .inr ⟨_, _, List.mem_singleton.mp hj'⟩
      · exact ⟨rfl, rfl, rfl, fun j hj => .inl hj⟩
    obtain ⟨h1, h2, h3, h4⟩ := ih (n := queueCheck e i n) (by rw [hq.1]; exact h)
    refine ⟨h1.trans hq.1, h2.trans hq.2.1, h3.trans hq.2.2.1, fun j hj => ?_⟩
    rcases h4 j hj with h5 | h5
    · exact hq.2.2.2 j h5
    · exact .inr h5

/-- The end of a job leaves the markers of validations that do not wait. -/
theorem finishJob_markers (e : Env) {n : Net} (h : n.walker.isSome = true) :
    (.adoptTopology ∉ n.jobs → (finishJob e n).topologyMarker = n.topologyMarker) ∧
    (.adoptSensors ∉ n.jobs → (finishJob e n).sensorsMarker = n.sensorsMarker) := by
  obtain ⟨_, h2, h3, h4⟩ := queueChecks_busy e h
  unfold finishJob startJobs
  generalize queueChecks e n = q at h2 h3 h4 ⊢
  refine ⟨fun hj => ?_, fun hj => ?_⟩
  · rw [if_neg (by simp)]
    refine ((startFrom_markers e _ _).1 fun hm => ?_).trans h2
    rcases h4 _ hm with h5 | ⟨_, _, h5⟩
    · exact hj h5
    · cases h5
  · rw [if_neg (by simp)]
    refine ((startFrom_markers e _ _).2 fun hm => ?_).trans h3
    rcases h4 _ hm with h5 | ⟨_, _, h5⟩
    · exact hj h5
    · cases h5

/-! ### What waits and what runs when a job ends -/

/-- A marker written leaves every incident's state, and every incident that the job is not for. -/
theorem setMarker_incident {n : Net} (c : n.Canonical) (j : Job) (m : Marker) (i : Nat) :
    ((setMarker j m n).incident i).state = (n.incident i).state ∧
    (j.incident ≠ some i → (setMarker j m n).incident i = n.incident i) := by
  have key : ∀ k, ((modIncident k (fun r => { r with marker := m }) n).incident i).state = (n.incident i).state ∧
      (some k ≠ some i → (modIncident k (fun r => { r with marker := m }) n).incident i = n.incident i) := fun k => by
    by_cases h : i = k
    · subst h; refine ⟨?_, fun h => absurd rfl h⟩
      unfold modIncident; rw [c.incident_setIncident_same]
    · have : (modIncident k (fun r => { r with marker := m }) n).incident i = n.incident i := c.incident_setIncident_other h _
      exact ⟨by rw [this], fun _ => this⟩
  cases j with
  | boundary k l => exact key k
  | supply k l => exact key k
  | _ => exact ⟨rfl, fun _ => rfl⟩

theorem canonical_setMarker {n : Net} (c : n.Canonical) (j : Job) (m : Marker) : (setMarker j m n).Canonical :=
  ((Keeps.refl n).setMarker j m).1 c

theorem dropsAtStart_congr {m n : Net} (h : ∀ i, (m.incident i).state = (n.incident i).state) : dropsAtStart m = dropsAtStart n := by
  funext j; unfold dropsAtStart; cases j.incident with
  | none => rfl
  | some i => simp only [h]

theorem startJob_takes (e : Env) (j : Job) (n : Net) :
    (startJob e j n).jobs = n.jobs ∧ (startJob e j n).walker = some ⟨j, false⟩ ∧
    (startJob e j n).topologyMarker = (if j = .adoptTopology then .running else n.topologyMarker) ∧
    (startJob e j n).sensorsMarker = (if j = .adoptSensors then .running else n.sensorsMarker) := by
  cases j with
  | boundary i l => unfold startJob; dsimp only; split <;> exact ⟨rfl, rfl, rfl, rfl⟩
  | _ => exact ⟨rfl, rfl, rfl, rfl⟩

/-- Of the waiting jobs those of FAILED incidents at the head are dropped and the next one starts (R105). -/
theorem startFrom_takes (e : Env) (js : List Job) {n : Net} (c : n.Canonical) (hw : n.walker = none) :
    let left := js.dropWhile (dropsAtStart n)
    let t := startFrom e js n
    t.jobs = left.drop 1 ∧ t.walker = left.head?.map (fun j => ⟨j, false⟩) ∧
    t.topologyMarker = (if left.head? = some .adoptTopology then .running else n.topologyMarker) ∧
    t.sensorsMarker = (if left.head? = some .adoptSensors then .running else n.sensorsMarker) := by
  induction js generalizing n with
  | nil => exact ⟨rfl, hw, rfl, rfl⟩
  | cons j js ih =>
    dsimp only; unfold startFrom; rw [List.dropWhile_cons]
    by_cases hd : dropsAtStart n j = true
    · rw [if_pos hd, if_pos hd]
      have hs := setMarker_markers (j := j) .none n
      have := ih (n := setMarker j .none n) (canonical_setMarker c ..) (by cases j <;> exact hw)
      rw [dropsAtStart_congr (m := setMarker j .none n) (n := n) fun i => (setMarker_incident c j .none i).1] at this
      rw [hs.1 (by rintro rfl; cases hd), hs.2 (by rintro rfl; cases hd)] at this
      exact this
    · rw [if_neg hd, if_neg hd]
      obtain ⟨h1, h2, h3, h4⟩ := startJob_takes e j { n with jobs := js }
      refine ⟨h1, h2, ?_, ?_⟩
      · rw [h3]; simp
      · rw [h4]; simp

/-- On a busy walker the supply jobs of the incidents in CHECKING without a job are appended in ascending number (R84). -/
theorem checks_from (e : Env) (l : List Nat) (hl : l.Nodup) {n o : Net} (c : n.Canonical) (h : n.walker.isSome = true)
    (ho : ∀ i ∈ l, n.incident i = o.incident i) :
    let q := l.foldl (fun n i => queueCheck e i n) n
    q.jobs = n.jobs ++ l.filterMap (fun i => if (o.incident i).state = .checking ∧ (o.incident i).marker = .none then
      some (Job.supply i (o.incident i).generation) else none) ∧
    q.Canonical ∧ ∀ i, (q.incident i).state = (n.incident i).state := by
  induction l generalizing n with
  | nil => exact ⟨by simp, c, fun _ => rfl⟩
  | cons i l ih =>
    rw [List.nodup_cons] at hl
    dsimp only; rw [List.foldl_cons, List.filterMap_cons]
    have hi := ho i List.mem_cons_self
    by_cases hc : (o.incident i).state = .checking ∧ (o.incident i).marker = .none
    · let j := Job.supply i (o.incident i).generation
      have hq : queueCheck e i n = setMarker j .queued { n with jobs := n.jobs ++ [j] } := by
        unfold queueCheck; dsimp only; rw [hi, if_pos hc, queueJob_busy e _ h]
      have c' : Net.Canonical { n with jobs := n.jobs ++ [j] } := { c with }
      rw [hq, if_pos hc]
      obtain ⟨h1, h2, h3⟩ := ih hl.2 (n := setMarker j .queued { n with jobs := n.jobs ++ [j] })
        (canonical_setMarker c' ..) h fun k hk => ((setMarker_incident c' _ _ k).2 fun e => hl.1 (by cases e; exact hk)).trans
          (ho k (List.mem_cons_of_mem _ hk))
      refine ⟨h1.trans ?_, h2, fun k => (h3 k).trans (setMarker_incident c' _ _ k).1⟩
      show (n.jobs ++ [j]) ++ _ = _
      rw [List.append_assoc]; rfl
    · have hq : queueCheck e i n = n := by unfold queueCheck; dsimp only; rw [hi, if_neg hc]
      rw [hq, if_neg hc]
      exact ih hl.2 c h fun k hk => ho k (List.mem_cons_of_mem _ hk)

/-- What a finished job leaves to wait and what it starts (R84, R105). -/
theorem finishJob_goesOn (e : Env) {n : Net} (c : n.Canonical) (h : n.walker.isSome = true) :
    let checks := incidentIds.filterMap fun i =>
      if (n.incident i).state = .checking ∧ (n.incident i).marker = .none then some (Job.supply i (n.incident i).generation) else none
    let left := (n.jobs ++ checks).dropWhile (dropsAtStart n)
    let t := finishJob e n
    t.jobs = left.drop 1 ∧ t.walker = left.head?.map (fun j => ⟨j, false⟩) ∧
    t.topologyMarker = (if left.head? = some .adoptTopology then .running else n.topologyMarker) ∧
    t.sensorsMarker = (if left.head? = some .adoptSensors then .running else n.sensorsMarker) := by
  obtain ⟨h1, h2, h3⟩ := checks_from e incidentIds (o := n) (by decide) c h fun _ _ => rfl
  obtain ⟨_, h4, h5, _⟩ := queueChecks_busy e h
  dsimp only
  unfold finishJob startJobs
  rw [if_neg (by simp)]
  unfold queueChecks at h4 h5 ⊢
  generalize incidentIds.foldl (fun n i => queueCheck e i n) n = q at h1 h2 h3 h4 h5 ⊢
  have := startFrom_takes e q.jobs (n := { q with walker := none }) { h2 with } rfl
  rw [dropsAtStart_congr (m := { q with walker := none }) (n := n) h3] at this
  rw [← h1, ← h4, ← h5]
  exact this

/-! ### The end of a job gives no notice and calls for no escalation -/

theorem Calms.finishJob {m n : Net} (h : Calms m n) (e : Env) : Calms m (finishJob e n) := by
  unfold Machine.finishJob
  refine Calms.startJobs ?_ e
  have hq : Calms m (queueChecks e n) := by
    unfold queueChecks
    refine Calms.foldl (fun i h => ?_) h _
    unfold queueCheck; dsimp only; split
    · exact h.queueJob ..
    · exact h
  generalize queueChecks e n = q at hq ⊢
  exact hq.next fun c => ⟨{ c with }, fun _ hi => hi⟩

/-- A completion that gives no notice settles at once (R105, R127). -/
theorem settle_finishJob {s n : Net} (e : Env) (hs : s.Settled) (hc : n.Canonical) (ha : n.agenda = s.agenda)
    (hi : n.incidents = s.incidents) : settle e (finishJob e n) = judgeAttn (finishJob e n) := by
  have hw := workless_finishJob e n
  refine settle_calm e ?_ fun i hm => ?_
  · have : (finishJob e n).agenda = n.agenda := by rw [← workless_agenda, hw, workless_agenda]
    rw [this, ha, hs.agenda]
  · refine (((Calms.refl n).finishJob e).holds hc).2 i ?_
    have : n.incident i = s.incident i := by unfold Net.incident; rw [hi]
    rw [this]; exact hs.escalation i hm

end Sys2Proof.Machine
end

