-- ==== Sys2Proof/Tests/Slice0.lean ====
section
/-! SUPPORT. Tests: what WellFormed refuses, what some commands do on small states, and, for every statement with hypotheses, a state
and operands that meet them (theorem test_meets_<statement>), each clause at a value of its own. -/

namespace Sys2Proof.Tests

open Sys2Proof.Machine

/-! ### Ill-formed commands -/

theorem test_final_word_is_no_nonFinalWordWrite : (Instr.nonFinalWordWrite (.control 7) 0 0).wellFormed = false := by decide
theorem test_full_write_is_no_partialWrite : (Instr.partialWrite (.control 0) 0 0xF#4 0).wellFormed = false := by decide
theorem test_nonFinal_word_is_no_incompleteRecord : (Instr.incompleteRecord (.sample 3 0) 0 0).wellFormed = false := by decide
theorem test_assigned_kind_is_no_unknown_kind :
    (Instr.controlUnknownKind 13 0).wellFormed = false ∧ (Instr.controlUnknownKind 14 0).wellFormed = true ∧
    (Instr.controlUnknownKind 0x100 0).wellFormed = true ∧ (Instr.controlUnknownKind 1 0).wellFormed = false := by decide

/-! ### Small states -/

/-- Seven marked words of a control record. -/
def ready (w0 w1 w2 : Word) (n : Net) : State :=
  { controlBuffer := [(0, ⟨w0, true⟩), (1, ⟨w1, true⟩), (2, ⟨w2, true⟩), (3, ⟨0, true⟩), (4, ⟨0, true⟩), (5, ⟨0, true⟩),
      (6, ⟨0, true⟩)]
    net := n }

theorem ready_control (w0 w1 w2 : Word) (n : Net) : (ready w0 w1 w2 n).ControlReady w0 w1 w2 := ⟨rfl, rfl, rfl, rfl, rfl⟩

/-- Three marked words of an image record for slot 0. -/
def imaged (w0 w1 w2 : Word) (n : Net) : State :=
  { imageBuffer := [(0, ⟨w0, true⟩), (1, ⟨w1, true⟩), (2, ⟨w2, true⟩)], net := n }

theorem imaged_ready (w0 w1 w2 : Word) (n : Net) : (imaged w0 w1 w2 n).ImageReady 0 w0 w1 w2 := ⟨rfl, rfl, rfl, rfl, rfl, rfl⟩

/-- The marked value word of a sample of sensor 5. -/
def sampled (w0 : Word) (n : Net) : State := { sampleLatches := [(5, ⟨w0, true⟩)], net := n }

theorem sampled_ready (w0 : Word) (n : Net) : (sampled w0 n).SampleReady 5 w0 := ⟨rfl, rfl, rfl⟩

/-- The marked position word of a report of valve 7. -/
def positioned (w0 : Word) (n : Net) : State := { positionLatches := [(7, ⟨w0, true⟩)], net := n }

theorem positioned_ready (w0 : Word) (n : Net) : (positioned w0 n).PositionReady 7 w0 := ⟨rfl, rfl, rfl⟩

/-- Seven tests for the canonical form. -/
theorem canonical_of {n : Net}
    (h : (tableWf Node.atReset n.nodes && tableWf Pipe.atReset n.pipes && tableWf Valve.atReset n.valves &&
      tableWf Sensor.atReset n.sensors && tableWf Cell.atReset n.cells && tableWf Incident.atReset n.incidents &&
      tableWf CauseRecord.atReset n.causes) = true) : n.Canonical := by
  simp only [Bool.and_eq_true] at h
  obtain ⟨⟨⟨⟨⟨⟨h1, h2⟩, h3⟩, h4⟩, h5⟩, h6⟩, h7⟩ := h
  exact ⟨h1, h2, h3, h4, h5, h6, h7⟩

/-- An open valve with a report, and small nodes, a sensor and a cell around it: a LIVE image. -/
def report : Report := ⟨990, false, false, false, 1, 0⟩
def valve : Valve :=
  { tag := .adopted, endA := 1, endB := 2, diameter := 6, strokeTime := 60, crossover := 150, divisor := 4, report := some report }
def sensor : Sensor :=
  { tag := .adopted, site := 1, cell := 2, threshold := 20, persistence := 5, lossTimeout := 30, shift := 3, learningCount := 4
    state := .normal, baseline := 25600, seeded := true }
def cell : Cell := { tag := .adopted, threshold := 40, persistence := 5, required := 3, centre := 1, state := .quiet }
def nodes : Table Node := [(1, { tag := .adopted }), (2, { tag := .adopted, kind := .source })]

def plant (v : Valve) (x : Sensor) (c : Cell) : Net :=
  { nodes := nodes, valves := [(7, v)], sensors := [(5, x)], cells := [(2, c)], topologyAdopted := true, sensorsAdopted := true
    live := true }

def plain : Net := plant valve sensor cell
def withIncident (i : Nat) (r : Incident) : Net := { plain with incidents := [(i, r)] }
def withValve (v : Valve) : Net := plant v sensor cell
def withSensor (x : Sensor) : Net := plant valve x cell
def withCell (c : Cell) : Net := plant valve sensor c

theorem plain_canonical : plain.Canonical := canonical_of (by decide)
theorem plain_settled : plain.Settled := ⟨rfl, by decide⟩

/-! ### What some commands do -/

/-- The next state; no command has another outcome. -/
def after (c : Instr) (s : State) : Option State :=
  match exec c s with
  | .next t => some t
  | _ => none

theorem test_counter_wraps : after .timeCounterAdvance { time := 0xFFFFFFFF } = some { time := 0 } := by decide
theorem test_counter_held_under_reset :
    after .timeCounterAdvance { resetAsserted := true } = some { resetAsserted := true } := by decide
theorem test_release_samples_straps :
    after (.resetNRelease 0xC0 2) { time := 9, resetAsserted := true } = some { anch := 0xC0, linkid := 2 } := by decide
theorem test_word_is_collected : after (.passedAccess ⟨true, 0x1E004, 0xF, 0x55, 1⟩) {} =
    some { port := .passed ⟨true, 0x1E004, 0xF, 0x55, 1⟩, controlBuffer := [(1, ⟨0x55, true⟩)] } := by decide
theorem test_partial_write_clears_the_mark :
    (after (.partialWrite (.control 1) 0 0x3 0) (ready 1 2 3 {})).map (fun t =>
      (t.latch (.control 1), t.net.recordErrors, (t.net.cause 12).flag)) = some (⟨2, false⟩, 1, true) := by decide
theorem test_unmirrored_command_read_passes : after (.commandRead 7 3 0xF 0) { net := plain } =
    some { port := .passed ⟨false, 0x16000 + 16 * 7 + 12, 0xF, 0, 0⟩, net := plain } := by decide
theorem test_write_is_suppressed_under_a_holder :
    (after (.commandWrite 7 3 0xAB 0xF 1) { net := withValve { valve with holders := [2], control := .controlled } }).map (fun t =>
      (t.refusals.length, t.refusalCount, t.shadow.length, (t.net.cause 10).flag)) = some (1, 1, 0, true) := by decide
theorem test_sample_of_a_part_that_is_not_live_is_dropped :
    (after (.sampleRecord 5 5 0) (sampled 3 {})).map (fun t =>
      (t.net.dropped, (t.latch (.sample 5 0)).mark)) = some (1, false) := by decide
theorem test_report_of_an_empty_valve_is_refused :
    (after (.positionReport 7 7 0) (positioned 3 {})).map (fun t =>
      (t.net.lastError.reason, t.net.recordErrors)) = some (some .noEntry, 1) := by decide
theorem test_node_record_is_staged :
    (after (.imageRecord 0 0x00010002 0) (imaged 0x101 0 0 {})).map (fun t =>
      t.net.node 1) = some { tag := .staged, kind := .source, guarded := true } := by decide
theorem test_acknowledgement_shows_the_cleared_flags :
    (after (.ackCauses ⟨1, 0, 0⟩) (ready 0x1003 0 0 { causes := [(1, { flag := true }), (12, { flag := true })] })).map (fun t =>
      (t.controlResult.detail, t.net.causes)) = some ((0x1002 : BitVec 32), ([] : Table CauseRecord)) := by decide
theorem test_cause_level_asserts_attn :
    (after (.setCause ⟨1, 0, 0⟩) (ready 1 2 0x77 { causes := [(1, { flag := true })] })).map (fun t =>
      (t.net.attn, t.net.attention)) = some (true, ⟨true, 0x77⟩) := by decide
theorem test_adoption_starts_at_once :
    (after (.adoptTopology ⟨1, 0, 0⟩) (ready 0 0 0 {})).map (fun t =>
      (t.net.walker, t.net.topologyMarker, t.controlResult.outcome)) = some (some ⟨.adoptTopology, false⟩, .running, .accepted) := by decide
theorem test_empty_topology_has_no_source :
    (after .topologyValidationCompletion { net := { walker := some ⟨.adoptTopology, false⟩, topologyMarker := .running } }).map (fun t =>
      (t.net.topologyResult.reason, t.net.topologyMarker, t.net.jobsCompleted)) = some (.noSource, .none, 1) := by decide +kernel
theorem test_pressure_drop_starts_an_excursion :
    (after (.sampleRecord 5 0x00010005 0) (sampled 79 plain)).map (fun t =>
      ((t.net.sensor 5).state, (t.net.sensor 5).lastDeviation, (t.net.sensor 5).baseline)) = some (.excursion, 21, 25600) := by
  decide +kernel
theorem test_advance_takes_a_pickup_expiry_left :
    (after .timeCounterAdvance { time := 50, net := withValve { valve with motion := .issued, purpose := .close, control := .controlled
                                                                           pickup := some 50 } }).map (fun t =>
      (t.time, (t.net.valve 7).motion, (t.net.valve 7).fault, (t.net.cause 7).time)) = some (51, .fault, .noPickup, 50) := by
  decide +kernel
theorem test_a_job_of_no_incident_reads_absent :
    (after (.reopenImage ⟨1, 0, 0⟩) (ready 0 0 0 { plain with walker := some ⟨.crossCheck, false⟩ })).map (fun t =>
      (t.controlResult.outcome, t.controlResult.detail)) = some (.busyImage, 0x0100FFFF) := by decide +kernel
theorem test_a_free_valve_is_not_seated_at_rest :
    (after (.positionReport 7 0x00090007 0) (positioned 0 plain)).map (fun t =>
      ((t.net.valve 7).seated, (t.net.valve 7).report.map Report.position)) = some (false, some 0) := by decide +kernel

/-! ### States that meet the hypotheses of the statements -/

theorem test_meets_StepRunsFrontCommand : State.reset.pending = [] := rfl

theorem test_meets_UnderResetEveryBlockStaysReset :
    ({ pending := [.timeCounterAdvance], resetAsserted := true } : State).HeldInReset ∧
    step { pending := [.timeCounterAdvance], resetAsserted := true } = .next { resetAsserted := true } := ⟨fun _ => rfl, rfl⟩

/-- A valve on the first leg of a test. -/
def tested (m : Motion) : Valve :=
  { valve with motion := m, purpose := .testOut, control := .controlled, image := some ⟨960, 41, .testOut, 1, .test, true⟩ }

/-- A valve that awaits its pickup, its timer due at 50. -/
def expecting : State :=
  { time := 50, net := withValve { valve with motion := .issued, purpose := .close, control := .controlled, pickup := some 50 } }

theorem test_meets_TimeCounterAdvancesByOne :
    expecting.net.Canonical ∧ ({ time := 0xFFFFFFFF } : State).resetAsserted = false ∧
    ({ time := 0xFFFFFFFF } : State).time = 0xFFFFFFFF#32 ∧ dueExpiries 0xFFFFFFFF ({} : Net) = [] ∧
    dueExpiries 50 expecting.net = [.pickup 7] ∧ dueExpiries 51 expecting.net = [] ∧
    (0xFFFFFFFF#32).toNat = ((0xFFFFFFFE#32).toNat + 1) % 2 ^ 32 ∧ (2#32).toNat = ((0xFFFFFFFF#32).toNat + 3) % 2 ^ 32 :=
  ⟨canonical_of (by decide), by decide⟩

theorem test_meets_BusCommandIsTheAccessItSpells :
    accessOf 1 (.lostLatchRead 31 0xF 2) = some ⟨false, 0x12037C, 0xF, 0, 2⟩ ∧
    accessOf 1 (.imageRecord 4095 7 2) = some ⟨true, 0x10FFFC, 0xF, 7, 2⟩ ∧
    accessOf 1 (.ackCauses ⟨5, 0, 2⟩) = some ⟨true, 0x11E01C, 0xF, 0x0005000D, 2⟩ ∧
    accessOf 1 (.commandWrite 2047 3 9 1 2) = some ⟨true, 0x11DFFC, 1, 9, 2⟩ := by decide

theorem test_meets_AccessesWithoutTreatmentPass :
    (({ resetAsserted := true } : State).resetAsserted = true ∧ Instr.crossCheckCompletion ≠ .resetNAssert ∧
      ∀ a l, Instr.crossCheckCompletion ≠ .resetNRelease a l) ∧
    placeOf 1 0x11E020 = .outside ∧ placeOf 1 0x11FFFF = .outside ∧ placeOf 1 0x140000 = .outside ∧
    (0x1E020 ≤ 0x1FFFF ∧ 0x1FFFF < 0x20000 ∧ 0x40000 ≤ 0xFFFFF ∧ 0xFFFFF < 2 ^ 20) ∧
    placeOf 1 0x115FFF = .record (.position 2047 1) ∧ placeOf 1 0x120001 = .report 0x20000 ∧
    0xFFFFF < (1#8).toNat * 2 ^ 20 ∧ ((1#8).toNat + 1) * 2 ^ 20 ≤ 0x200000 := by
  refine ⟨⟨rfl, by decide, fun _ _ h => nomatch h⟩, ?_⟩; decide

theorem test_meets_ReportReadShowsTheWord :
    placeOf 0 0x202FF = .report 0x202FC ∧ 0x202FC < 0x20300 ∧ placeOf 0 0x20380 = .report 0x20380 ∧
    placeOf 0 0x3FFFF = .report 0x3FFFC ∧
    ([⟨2047, 7, [0], .controlled, 9⟩] : List Refused)[0]? = some ⟨2047, 7, [0], .controlled, 9⟩ ∧
    ([⟨2047, 7, [0], .controlled, 9⟩] : List Refused)[1]? = none ∧
    (([⟨4095, some 63, 9⟩] : List Origin)[0]? = some ⟨4095, some 63, 9⟩ ∧ ([⟨4095, some 63, 9⟩] : List Origin)[3]? = none) ∧
    (([⟨0, [], [1], [⟨7, true⟩], 1, 0, true⟩] : List Frame)[0]? = some ⟨0, [], [1], [⟨7, true⟩], 1, 0, true⟩ ∧
      ([] : List Frame)[3]? = none) ∧
    (({ location := some ⟨.opened, 9, 1, some 5, 999, 0, 0, some 7⟩ } : Cell).location =
      some ⟨.opened, 9, 1, some 5, 999, 0, 0, some 7⟩ ∧ cell.location = none) ∧
    (92 ≤ 127 ∧ 127 < 128) ∧ (([] : List Refused).length ≤ 8 ∧ 33 ≤ 47 ∧ 47 < 48) ∧ 15 < 16 ∧ 7 < 8 ∧ 3 < 4 ∧ 13 < 14 ∧ 63 < 64 ∧ 1023 < 1024 ∧ 2047 < 2048 := by decide

theorem test_meets_LostLatchReadReturnsThenClears :
    ({ net := plain } : State).Canonical ∧ plain.Settled := ⟨⟨rfl, rfl, rfl, rfl, rfl, plain_canonical⟩, plain_settled⟩

theorem test_meets_RecordWordIsStoredWithItsMark :
    State.reset.Canonical ∧ RecordWord.isFinal (.control 6) = false ∧ RecordWord.isFinal (.image 4095 2) = false ∧
    (1#12).toNat ≠ State.reset.imageSlot ∧ (0#12).toNat = State.reset.imageSlot :=
  ⟨⟨rfl, rfl, rfl, rfl, rfl, canonical_of rfl⟩, by decide⟩

theorem test_meets_PartialAndIncompleteWritesAreReported :
    State.reset.resetAsserted = false ∧ State.reset.net.Settled ∧ (0xE#4 : Enables) ≠ 0xF#4 ∧
    RecordWord.isFinal (.control 7) = true ∧
    (State.reset.turnSlot (.control 7)).complete (.control 7) = false ∧ RecordWord.isFinal (.image 9 3) = true ∧
    ((imaged 0 0 0 {}).turnSlot (.image 9 3)).complete (.image 9 3) = false := by
  refine ⟨rfl, ⟨rfl, by decide⟩, ?_⟩; decide

theorem test_meets_RaisesAndRecordErrorsWriteTheirRecords : plain.Canonical ∧ (11 : Nat) ≠ Cause.recordError.number :=
  ⟨plain_canonical, by decide⟩

/-- An image record of a kind with an id, delete or not. -/
def imageOf (kind id : Nat) (delete : Bool) (w0 w1 : Word) : ImageRecord := ⟨w0, w1, 0, kind, delete, id⟩

def staged : Net := { nodes := [(1, { tag := .staged })], cells := [(2, { tag := .staged, meters := [⟨5, false⟩] })] }
def fullCell : Cell := { tag := .staged, meters := (List.range 12).map fun k => ⟨k + 10, false⟩ }

/-- The checks that every kind has. -/
theorem test_meets_ImageChecksRunInOrder :
    ((imaged 2 0 0 staged).ImageReady 0 2 0 0 ∧ staged.Settled) ∧
    (ImageKind.ofCode 0 = none ∧ ImageKind.ofCode 8 = none ∧ ImageKind.ofCode 2 = some .node) ∧
    (ImageKind.node.idInRange 4096 = false ∧ ImageKind.node.idInRange 4095 = true) ∧
    (halfAdopted plain .node = true ∧ halfAdopted staged .node = false) ∧
    (halfMarker { staged with topologyMarker := .queued } .node ≠ .none ∧ halfMarker staged .node = .none) ∧
    (deletable staged .node (imageOf 2 0 true 0 0) = false ∧ deletable staged .node (imageOf 2 1 true 0 0) = true) ∧
    ((imageOf 2 1 false 2 0).fieldsInRange .node = false ∧ (imageOf 2 1 false 1 0).fieldsInRange .node = true) ∧
    imageRefusal staged (imageRecordOf 2 0 0 0x00010002) = some .fieldRange :=
  ⟨⟨imaged_ready .., rfl, by decide⟩, by decide⟩

/-- The checks that a meter record has beside them. -/
theorem test_meets_ImageChecksRunInOrder_meters :
    let again := (imageOf 7 2 false 0x10005 0).meterSensor
    let other := (imageOf 7 2 false 0x10006 0).meterSensor
    (imageOf 7 2 false 0x10005 0).fieldsInRange .cellMeter = true ∧ (staged.cell 3).tag = .empty ∧ (staged.cell 2).tag ≠ .empty ∧
    (∃ m ∈ (staged.cell 2).meters, m.sensor = again) ∧ (∀ m ∈ (staged.cell 2).meters, m.sensor ≠ other) ∧
    (staged.cell 2).meters.length < 12 ∧ 12 ≤ fullCell.meters.length ∧ ∀ m ∈ fullCell.meters, m.sensor ≠ other := by decide

/-- Words of a GLOBAL record at the least values of its fields. -/
theorem test_meets_TopologyRecordStagesItsEntry :
    staged.Settled ∧ flagBit 0x07FF0004 7 = false ∧
    imageRefusal staged (imageRecordOf 0x05010000 0x000A000A 0x006E0005 1) = none ∧ field 1 0 4 = 1 ∧
    imageRefusal staged (imageRecordOf 1 0 0 0x0FFF0002) = none ∧ field 0x0FFF0002 0 4 = 2 ∧
    imageRefusal staged (imageRecordOf 0 0 0 0x1FFF0003) = none ∧ field 0x1FFF0003 0 4 = 3 ∧
    imageRefusal staged (imageRecordOf 0x00020001 0x00320201 10 0x07FF0004) = none ∧ field 0x07FF0004 0 4 = 4 :=
  ⟨⟨rfl, by decide⟩, by decide⟩

theorem test_meets_SensorHalfRecordStagesItsEntry :
    staged.Settled ∧ flagBit 0x03FF0005 7 = false ∧
    imageRefusal staged (imageRecordOf 0 0x00010200 0x01002801 0x03FF0005) = none ∧ field 0x03FF0005 0 4 = 5 ∧
    imageRefusal staged (imageRecordOf 0x00010001 0 0 0x003F0006) = none ∧ field 0x003F0006 0 4 = 6 ∧
    imageRefusal staged (imageRecordOf 0x00010006 0 0 0x00020007) = none ∧ field 0x00020007 0 4 = 7 :=
  ⟨⟨rfl, by decide⟩, by decide⟩

def stagedAll : Net :=
  { staged with
    globals := ⟨.staged, {}⟩, pipes := [(1, { tag := .staged })], valves := [(1, { tag := .staged })]
    sensors := [(1, { tag := .staged })] }

theorem test_meets_DeleteRecordEmptiesItsEntry :
    stagedAll.Settled ∧ flagBit 0x00010082 7 = true ∧ imageRefusal stagedAll (imageRecordOf 0 0 0 0x81) = none ∧
    imageRefusal stagedAll (imageRecordOf 0 0 0 0x00010082) = none ∧ imageRefusal stagedAll (imageRecordOf 0 0 0 0x00010083) = none ∧
    imageRefusal stagedAll (imageRecordOf 0 0 0 0x00010084) = none ∧ imageRefusal stagedAll (imageRecordOf 0 0 0 0x00010085) = none ∧
    imageRefusal stagedAll (imageRecordOf 0 0 0 0x00020086) = none ∧ imageRefusal stagedAll (imageRecordOf 5 0 0 0x00020087) = none :=
  ⟨⟨rfl, by decide⟩, by decide⟩

theorem test_meets_SampleDisposedBeforeTheStateMachine :
    (sampled 0 plain).SampleReady 5 0 ∧ plain.Settled ∧ plain.live = true ∧ ({} : Net).live = false ∧
    field 4 0 10 ≠ (5#10).toNat ∧ field 5 0 10 = (5#10).toNat ∧ field 0xC05 10 2 = 3 ∧ field 0x805 10 2 = 2 ∧
    field 0x405 10 2 = 1 ∧ (plain.sensor 5).tag = .adopted ∧ (plain.sensor 5).lastSequence ≠ some 0 ∧
    ({ sensor with lastSequence := some 0 } : Sensor).lastSequence = some (BitVec.ofNat 16 (field 5 16 16)) ∧
    sampleValue .decimal 0xA = none ∧ sampleValue .binary 0xA ≠ none := by
  refine ⟨sampled_ready .., plain_settled, ?_⟩; decide

theorem test_meets_GoodSampleTakenByTheStateMachine :
    (sampled 0x8000 plain).SampleReady 5 0x8000 ∧ field 0x00010005 0 10 = (5#10).toNat ∧ field 0x00010005 10 2 = 0 ∧
    plain.live = true ∧ (plain.sensor 5).tag = .adopted ∧
    (plain.sensor 5).lastSequence ≠ some (BitVec.ofNat 16 (field 0x00010005 16 16)) ∧
    sampleValue (plain.sensor 5).format 0x8000 = some (-32768) := by
  refine ⟨sampled_ready .., ?_⟩; decide

theorem test_meets_SensorStateRules :
    ({ sensor with state := .learning, seeded := false } : Sensor).seeded = false ∧ sensor.state = .normal ∧ sensor.seeded = true ∧
    (sensor.threshold : Int) < sensor.deviation 79 ∧ sensor.deviation 80 ≤ (sensor.threshold : Int) ∧
    sensor.deviation 91 < ((sensor.threshold / 2 : Nat) : Int) ∧ ((sensor.threshold / 2 : Nat) : Int) ≤ sensor.deviation 90 ∧
    sensor.kind = .pressure ∧ ({ sensor with kind := .flow } : Sensor).kind = .flow := by decide

theorem test_meets_BaselineNeverPassesTheSample :
    sensor.baseline ≤ 100 * 256 ∧ 99 * 256 < sensor.baseline ∧ sampleValue .binary 0x8000 = some (-32768) ∧
    sampleValue .decimal 0x80009999 = some (-9999) ∧ (∀ k, k < 4 → field 0x80009999 (4 * k) 4 ≤ 9) ∧
    sampleValue .binary 0x80007FFF = some 32767 ∧ sampleValue .decimal 0x120 = some 120 := by decide

theorem test_meets_SensorTimersExpire :
    plain.Settled ∧ sensor.supervised = true ∧ timerDue (some 7) 7 = true ∧ timerDue (some 7) 6 = false ∧ timerDue none 7 = false ∧
    timerDue (startTimer 0xFFFFFFFF 3) 2 = true ∧ timerDue (startTimer 0xFFFFFFFF 3) 3 = false ∧
    ({ sensor with state := .excursion } : Sensor).state = .excursion ∧ ({ sensor with state := .lost } : Sensor).supervised = false :=
  ⟨plain_settled, by decide⟩

theorem test_meets_RebaselineRestartsLearning :
    ((ready 0xFFFFFFFF 0 0 plain).ControlReady 0xFFFFFFFF 0 0 ∧ (ready 2 0 0 plain).ControlReady 2 0 0) ∧
    (plain.Settled ∧ plain.Canonical) ∧
    Enumerates [5] (fun k => ((plain.sensor k).cell == 2) = true ∧ (plain.sensor k).tag = .adopted ∧
      (plain.sensor k).supervised = true) ∧
    plain.live = true ∧ (plain.cell 2).tag = .adopted ∧ (plain.cell 63).tag ≠ .adopted ∧ (64#32 : Word) ≠ 0xFFFFFFFF#32 ∧
    64 ≤ (64#32 : Word).toNat ∧ (plain.sensor 5).tag = .adopted ∧ (plain.sensor 5).supervised = true ∧
    (plain.sensor 6).tag ≠ .adopted :=
  ⟨⟨ready_control .., ready_control ..⟩, ⟨plain_settled, plain_canonical⟩,
    enumerates_of (q := fun _ x => (x.cell == 2) = true ∧ x.tag = .adopted ∧ x.supervised = true) plain_canonical.sensors
      (fun _ => by decide) (by decide), by decide⟩

theorem test_meets_CellStatesFollowTheImbalance :
    let at' (st : CellState) (known : Bool) (i : Int) : Cell := { cell with state := st, known := known, imbalance := i }
    ((at' .quiet true 41).known = true ∧ ((at' .quiet true 41).threshold : Int) < (at' .quiet true 41).imbalance) ∧
    ¬ ((at' .watch true 40).known = true ∧ ((at' .watch true 40).threshold : Int) < (at' .watch true 40).imbalance) ∧
    (at' .tripped true 20).imbalance ≤ (((at' .tripped true 20).threshold / 2 : Nat) : Int) ∧
    ¬ ((at' .tripped true 21).known = false ∨
      (at' .tripped true 21).imbalance ≤ (((at' .tripped true 21).threshold / 2 : Nat) : Int)) ∧
    (at' .tripped false 99).known = false ∧ (at' .suspended true 0).state = .suspended := by decide

theorem test_meets_CellTimerTripsTheCell :
    ({ cell with state := .watch, persist := some 5 } : Cell).state = .watch ∧ timerDue (some 5) 5 = true ∧
    plain.Settled ∧ plain.Canonical ∧ (plain.cell 2).state ≠ .watch ∧ (plain.cell 2).active = true ∧
    ((withCell { cell with state := .tripped, required := 2 }).cell 2).score <
      ((withCell { cell with state := .tripped, required := 2 }).cell 2).required ∧
    ((withCell { cell with state := .tripped, required := 2 }).cell 2).required ≤
      scoreOf (withCell { cell with state := .tripped, required := 2 }) 2
        ((withCell { cell with state := .tripped, required := 2 }).cell 2) ∧
    ({ cell with state := .suspended } : Cell).active = false ∧ ({ cell with state := .tripped } : Cell).state = .tripped ∧
    cell.state = .quiet ∧ (∃ m ∈ ({ cell with meters := [⟨5, true⟩] } : Cell).meters, m.sensor = 5) ∧
    ∀ m ∈ ({ cell with meters := [⟨6, true⟩] } : Cell).meters, m.sensor ≠ 5 := by
  refine ⟨by decide, by decide, plain_settled, plain_canonical, ?_⟩; decide

theorem test_meets_LocatorPicksTheLargestRatio :
    plain.Canonical ∧ ({ sensor with baseline := 255 } : Sensor).finding = .zeroBaseline ∧
    ({ sensor with lastDeviation := 101 } : Sensor).finding = .ratioRange ∧
    ({ sensor with lastDeviation := 100 } : Sensor).finding = .usable 1000 ∧
    candidates (withSensor { sensor with state := .tripped }) 2 = [5] ∧ (findings plain 2).winner = none ∧
    (findings (withSensor { sensor with state := .tripped, lastDeviation := 100 }) 2).winner = some (5, 1000) := by
  refine ⟨plain_canonical, ?_⟩; decide

/-- All eight incidents in SEARCHING. -/
def crowded : Net := { plain with incidents := (List.range 8).map fun i => (i, { state := .searching, marker := .queued }) }

theorem test_meets_LocatorEndsInOneOfThreeOutcomes :
    plain.Canonical ∧ (plain.node (originOf plain (plain.cell 2) (findings plain 2))).owner = none ∧
    (plain.incident 0).state = .free ∧ (∀ i, i < 8 → (crowded.incident i).state ≠ .free) ∧
    (({ plain with nodes := [(1, { tag := .adopted, owner := some ⟨3, 0⟩ })] } : Net).node 1).owner = some ⟨3, 0⟩ ∧
    (plain.cell 2).tag = .adopted ∧ (plain.cell 2).active = true := by
  refine ⟨plain_canonical, ?_⟩; decide

/-- Incident 7 searches for cell 2. -/
def searching : Net := withIncident 7 { state := .searching, origins := [⟨1, some 2, 0⟩], marker := .queued }

/-- An incident that suspends its cells names cell `k` among its origins. -/
abbrev named (n : Net) (k : Nat) : Prop :=
  ∃ i, i < 8 ∧ ((n.incident i).state = .searching ∨ (n.incident i).state = .checking ∨ (n.incident i).state = .held ∨
    (n.incident i).state = .closing) ∧ ∃ o ∈ (n.incident i).origins, o.cell = some k

def suspended : Net := withCell { cell with state := .suspended }

/-- A cell whose suspension begins, one whose suspension ends, and the cells of a sweep. -/
theorem test_meets_LocatorEndsInOneOfThreeOutcomes_cells :
    (searching.Canonical ∧ suspended.Canonical) ∧
    Enumerates [2] (fun k => (searching.cell k).tag = .adopted ∧ (searching.cell k).active = true ∧ named searching k) ∧
    Enumerates [2] (fun k => (suspended.cell k).tag = .adopted ∧ (suspended.cell k).state = .suspended ∧ ¬ named suspended k) ∧
    Enumerates [2] fun k => (plain.cell k).tag = .adopted :=
  ⟨⟨canonical_of (by decide), canonical_of (by decide)⟩,
    enumerates_of (q := fun k (c : Cell) => c.tag = .adopted ∧ c.active = true ∧ named searching k) rfl
      (fun _ h => (nomatch h.1)) (by decide),
    enumerates_of (q := fun k (c : Cell) => c.tag = .adopted ∧ c.state = .suspended ∧ ¬ named suspended k) rfl
      (fun _ h => (nomatch h.1)) (by decide),
    enumerates_of (q := fun _ (c : Cell) => c.tag = .adopted) rfl (fun _ => by decide) rfl⟩

/-- The sensor of the plant with a GOOD value. -/
def metered : Net := withSensor { sensor with lastGood := some 100 }

theorem test_meets_SetDemandRequest :
    (ready 2 1000000 0 plain).ControlReady 2 1000000 0 ∧ plain.Settled ∧
    (∃ c : Cell, c.meters ≠ [] ∧ (∀ m ∈ c.meters, let x := metered.sensor m.sensor
      (x.state = .normal ∨ x.state = .excursion ∨ x.state = .tripped) ∧ x.lastGood ≠ none ∧ masked metered x = false) ∧
      imbalanceOf metered c = some 100) ∧
    plain.live = true ∧ (2#32 : Word).toNat < 64 ∧ (plain.cell 2).tag = .adopted ∧ (1000000#32 : Word).toInt = 1000000 ∧
    (0xFFF0BDC0#32 : Word).toInt = -1000000 ∧ 1000000 < (1000001#32 : Word).toInt ∧ (0xFFF0BDBF#32 : Word).toInt < -1000000 ∧
    64 ≤ (64#32 : Word).toNat ∧ (∃ m ∈ [(⟨6, false⟩ : Meter)], (metered.sensor m.sensor).state ≠ .normal) ∧
    ({} : Cell).meters = [] ∧ (plain.cell 2).state ≠ .idle ∧ (plain.cell 3).state = .idle ∧
    imbalanceOf plain (plain.cell 2) = none := by
  refine ⟨ready_control .., plain_settled, ⟨{ cell with meters := [⟨5, false⟩] }, by decide⟩, ?_⟩; decide

theorem test_meets_IsolateNodeRequest :
    (ready 1 0 0 plain).ControlReady 1 0 0 ∧ plain.live = true ∧ plain.Settled ∧ crowded.Settled ∧ 4096 ≤ (4096#32 : Word).toNat ∧
    (plain.node 4095).tag ≠ .adopted ∧ (plain.node 2).kind = .source ∧ (plain.node 2).tag = .adopted ∧
    (plain.node 1).kind = .junction ∧ (plain.node 1).tag = .adopted ∧ (plain.node 1).owner = none ∧
    (∀ i, i < 8 → (crowded.incident i).state ≠ .free) ∧ (plain.incident 0).state = .free := by
  refine ⟨ready_control .., rfl, plain_settled, ⟨rfl, by decide⟩, ?_⟩; decide

theorem test_meets_OpeningWritesTheIncident :
    plain.Canonical ∧ plain.Working ∧ plain.walker = none ∧
    ({ plain with walker := some ⟨.crossCheck, false⟩ } : Net).Working ∧
    ({ plain with walker := some ⟨.crossCheck, false⟩ } : Net).walker ≠ none :=
  ⟨plain_canonical, fun _ => rfl, rfl, fun h => (nomatch h), by decide⟩

def held : Incident := { state := .held, holdReason := .policy, holdTimer := some 8, frames := [⟨0, [], [1], [⟨7, false⟩], 1, 0, false⟩] }

theorem test_meets_ConfirmAndHoldExpiryEnterClosing :
    (ready 7 0 0 (withIncident 7 held)).ControlReady 7 0 0 ∧ (withIncident 7 held).live = true ∧
    ((withIncident 7 held).incident 7).state = .held ∧ plain.Settled ∧ (withIncident 7 held).Settled ∧ 8 ≤ (8#32 : Word).toNat ∧
    (plain.incident 7).state ≠ .held ∧ held.holdReason = .policy ∧ timerDue held.holdTimer 8 = true ∧
    timerDue held.holdTimer 7 = false := by
  refine ⟨ready_control .., rfl, by decide, plain_settled, ⟨rfl, by decide⟩, ?_⟩; decide

def closing : Incident := { held with state := .closing, frames := [⟨0, [], [1], [⟨7, true⟩], 1, 0, true⟩] }

theorem test_meets_ClosingChecksFramesAndJudgesIsolation :
    (withIncident 7 closing).Canonical ∧ closing.state = .closing ∧
    (∀ f ∈ closing.frames, ∀ b ∈ f.boundary, b.failed = true ∨
      ((plain.valve b.valve).confirmedClosed plain.params = true ∧ (plain.valve b.valve).motion = .rest)) ∧
    closing.marker = .none ∧ closing.pendingCauses = [] ∧ held.state ≠ .closing ∧
    (valve.motion = .rest ∧ (tested .travel).motion ≠ .rest ∧ (tested .travel).motion ≠ .fault ∧ (tested .travel).purpose ≠ .close) ∧
    (tested .waiting).motion = .waiting ∧ ({ tested .issued with purpose := .close } : Valve).purpose = .close := by
  refine ⟨canonical_of (by decide), ?_⟩; decide

theorem test_meets_ReleaseLeavesNoClaim :
    (ready 7 0 0 (withIncident 7 held)).ControlReady 7 0 0 ∧ plain.Settled ∧
    ({ withIncident 7 held with walker := some ⟨.supply 7 0, false⟩ } : Net).Canonical ∧
    (∀ w, plain.walker = some w → w.job.incident ≠ some 7) ∧ held.state ≠ .free ∧ held.state ≠ .releasing ∧
    8 ≤ (8#32 : Word).toNat ∧ (plain.incident 7).state = .free ∧
    ((withIncident 7 { held with state := .releasing }).incident 7).state = .releasing ∧
    ({ withIncident 7 held with walker := some ⟨.supply 7 0, false⟩ } : Net).walker = some ⟨.supply 7 0, false⟩ ∧
    Job.incident (.supply 7 0) = some 7 ∧ (⟨7, false⟩ : Boundary) ∈ held.boundary := by
  refine ⟨ready_control .., plain_settled, { canonical_of (n := withIncident 7 held) (by decide) with }, fun _ h => (nomatch h), ?_⟩
  decide

def outer : Frame := ⟨1, [7], [1], [], 0, 0, true⟩
def isolated : Incident := { state := .isolated, depth := 1, frames := [⟨0, [], [1], [], 1, 0, true⟩, outer] }
def shut : Valve := { valve with report := some ⟨0, false, true, false, 2, 0⟩ }

theorem test_meets_RetractRequest :
    (ready 7 0 0 (withIncident 7 isolated)).ControlReady 7 0 0 ∧ (withIncident 7 isolated).Settled ∧
    (withIncident 7 isolated).Canonical ∧ isolated.state = .isolated ∧ 0 < isolated.depth ∧
    isolated.frames[isolated.depth]? = some outer ∧ openCause plain outer = some 7 ∧ openCause (withValve shut) outer = none ∧
    held.state ≠ .isolated ∧ ({ isolated with depth := 0 } : Incident).depth = 0 ∧ 8 ≤ (8#32 : Word).toNat := by
  refine ⟨ready_control .., ⟨rfl, by decide⟩, canonical_of (by decide), ?_⟩; decide

/-- A release that asks no valve to open, and one that asks for one. -/
theorem test_meets_ReleaseLeavesNoClaim_valves :
    (opensOnLoss plain 7 = false ∧ opensOnLoss (withValve shut) 7 = true) ∧ releaseCount ⟨0, []⟩ 7 (withIncident 7 held) = 0 ∧
    releaseCount ⟨0, []⟩ 7 { withIncident 7 held with valves := [(7, { shut with holders := [7] })] } = 1 := by decide +kernel

theorem test_meets_TestValveRequest :
    (ready 7 20 0 plain).ControlReady 7 20 0 ∧ plain.live = true ∧ plain.Settled ∧ (plain.valve 7).tag = .adopted ∧
    (plain.valve 2047).tag ≠ .adopted ∧ (19#32 : Word).toNat < 20 ∧ 300 < (301#32 : Word).toNat ∧
    (valve.holders = [] ∧ valve.motion = .rest ∧ valve.control = .free) ∧
    ¬ (({ valve with control := .handbackPending } : Valve).control = .free) ∧
    ({ valve with health := .outOfService } : Valve).health = .outOfService ∧ valve.health ≠ .outOfService ∧
    shut.confirmedOpen plain.params = false ∧ valve.confirmedOpen plain.params = true ∧ valve.report = some report ∧
    plain.params.closedTolerance < 20 ∧ 300 ≤ report.position ∧
    ({ valve with report := some { report with position := 19, limitOpen := true } } : Valve).confirmedOpen plain.params = true := by
  refine ⟨ready_control .., rfl, plain_settled, ?_⟩; decide

theorem test_meets_ValveServiceRequests :
    (ready 7 1 0 plain).ControlReady 7 1 0 ∧ (ready 7 2 0 plain).ControlReady 7 2 0 ∧ (ready 7 3 0 plain).ControlReady 7 3 0 ∧
    plain.Settled ∧ (withValve (tested .travel)).Canonical ∧ (plain.valve 7).tag = .adopted ∧ (3#32 : Word) ≠ 1 ∧ (3#32 : Word) ≠ 2 ∧
    ({ valve with holders := [0] } : Valve).holders ≠ [] ∧ valve.holders = [] ∧ valve.underTest = false ∧
    (tested .travel).underTest = true ∧ (tested .waiting).underTest = true ∧ (tested .travel).holders = [] ∧
    ((withValve (tested .travel)).valve 7).underTest = true ∧
    (tested .issued).motion = .issued ∧ (tested .travel).motion = .travel ∧ (tested .waiting).motion = .waiting :=
  ⟨ready_control .., ready_control .., ready_control .., plain_settled, canonical_of (by decide), by decide⟩

theorem test_meets_CauseRequests :
    ((ready 15 3 255 plain).ControlReady 15 3 255 ∧ plain.Settled ∧ (ready 15 3 255 plain).Canonical) ∧
    ((15#32 : Word).toNat ≤ 15 ∧ (3#32 : Word).toNat ≤ 3 ∧ (255#32 : Word).toNat ≤ 255) ∧
    15 < (16#32 : Word).toNat ∧ 3 < (4#32 : Word).toNat ∧ 255 < (256#32 : Word).toNat :=
  ⟨⟨ready_control .., plain_settled, ⟨rfl, rfl, rfl, by decide, rfl, plain_canonical⟩⟩, by decide⟩

theorem test_meets_UnknownAndNotLiveRequestsAreRefused :
    (ready 0 0 0 {}).ControlReady 0 0 0 ∧ ({} : Net).Settled ∧ ({} : Net).live = false ∧
    (Instr.controlUnknownKind 14 0).wellFormed = true ∧ (Instr.controlUnknownKind 0 0).wellFormed = true ∧
    requestOf (.isolateNode ⟨0, 0, 0⟩) = some (⟨0, 0, 0⟩, 4) ∧ requestOf (.rebaseline ⟨0, 0, 0⟩) = some (⟨0, 0, 0⟩, 11) := by
  refine ⟨ready_control .., ⟨rfl, by decide⟩, ?_⟩; decide

theorem test_meets_AdoptionRequestsQueueTheirJobs :
    (ready 0 0 0 {}).ControlReady 0 0 0 ∧ ({} : Net).Settled ∧ ({} : Net).Working ∧ plain.topologyAdopted = true ∧
    ({} : Net).topologyAdopted = false ∧ ({ topologyMarker := .running } : Net).topologyMarker ≠ .none ∧
    plain.sensorsAdopted = true ∧ ({} : Net).sensorsAdopted = false ∧ ({ sensorsMarker := .queued } : Net).sensorsMarker ≠ .none ∧
    ({ walker := some ⟨.crossCheck, false⟩ } : Net).walker ≠ none := by
  refine ⟨ready_control .., ⟨rfl, by decide⟩, fun _ => rfl, ?_⟩; decide

theorem test_meets_ReopenImageRequest :
    (ready 0 0 0 plain).ControlReady 0 0 0 ∧ plain.Settled ∧ (ready 0 0 0 plain).Canonical ∧
    ¬ (({ plain with walker := some ⟨.crossCheck, false⟩ } : Net).walker = none) ∧ (plain.walker = none ∧ plain.jobs = []) ∧
    Job.incident (.boundary 7 0) = some 7 ∧ (∀ i, i < 7 → Job.incident (.boundary 7 0) ≠ some i) ∧
    ((withIncident 7 held).incident 7).state ≠ .free ∧ (∀ j, j < 7 → ((withIncident 7 held).incident j).state = .free) ∧
    (∀ i, i < 8 → (plain.incident i).state = .free) ∧ ((withValve (tested .travel)).valve 7).control ≠ .free ∧
    Job.incident .crossCheck = none ∧ (plain.valve 7).control = .free ∧ (plain.valve 7).motion = .rest ∧ plain.live = true ∧
    ({} : Net).live = false := by
  refine ⟨ready_control .., plain_settled, ⟨rfl, rfl, rfl, by decide, rfl, plain_canonical⟩, ?_⟩; decide

theorem test_meets_CommandWriteIsSuppressedOrPassed :
    plain.Settled ∧ plain.Canonical ∧ ({ valve with holders := [7] } : Valve).holders ≠ [] ∧
    (∃ i, ({ valve with control := .controlled, image := some ⟨0, 0, .close, 1, .close, true⟩ } : Valve).image = some i ∧
      i.source ≠ .test) ∧
    (valve.holders = [] ∧ valve.control ≠ .controlled ∧ valve.underTest = false) ∧
    ({ valve with control := .handbackPending } : Valve).control = .handbackPending ∧ (3#2 : BitVec 2) = 3 ∧ (2#2 : BitVec 2) ≠ 3 ∧
    (tested .issued).underTest = true ∧ (tested .issued).image.map (·.source) = some .test :=
  ⟨plain_settled, plain_canonical, by decide, ⟨_, rfl, by decide⟩, by decide⟩

theorem test_meets_CommandReadIsPassedAnsweredOrAPickup :
    plain.Settled ∧ valve.control = .free ∧ (tested .issued).control ≠ .free ∧
    (tested .issued).image = some ⟨960, 41, .testOut, 1, .test, true⟩ ∧ (tested .issued).motion = .issued ∧
    (tested .travel).motion ≠ .issued ∧ ({ valve with control := .controlled } : Valve).image = none ∧
    (valve.report = some report ∧ ({ valve with report := none } : Valve).report = none) ∧ (tested .issued).purpose = .testOut ∧
    ({ tested .issued with purpose := .testBack } : Valve).purpose = .testBack ∧
    (({ valve with purpose := .close } : Valve).expectedTime 990 0 = 840 * 100 / 166 + 150 * 100 / 41 ∧
      (tested .issued).expectedTime 990 960 = 30 * 100 / 41) :=
  ⟨plain_settled, by decide⟩

theorem test_meets_PositionReportIsRefusedRepeatedOrStored :
    (positioned 1000 plain).PositionReady 7 1000 ∧ plain.Settled ∧ field 6 0 11 ≠ (7#11).toNat ∧ field 7 0 11 = (7#11).toNat ∧
    1000 < field 1001 0 11 ∧ field 1000 0 11 ≤ 1000 ∧ (flagBit 0x30000 16 = true ∧ flagBit 0x30000 17 = true) ∧
    flagBit 1000 16 = false ∧ (({} : Net).valve 7).tag = .empty ∧ (plain.valve 7).tag ≠ .empty ∧
    BitVec.ofNat 16 (field 0x00010007 16 16) = report.sequence ∧ BitVec.ofNat 16 (field 0x00020007 16 16) ≠ report.sequence := by
  refine ⟨positioned_ready .., plain_settled, ?_⟩; decide

theorem test_meets_CoarseAndFineRates :
    ({ valve with strokeTime := 10 } : Valve).strokeTime = 10 ∧ ({ valve with strokeTime := 3600 } : Valve).strokeTime = 3600 ∧
    2 ≤ ({ valve with divisor := 2 } : Valve).divisor ∧ valve.divisor = 4 ∧ valve.strokeTime = 60 ∧
    ({ valve with strokeTime := 45 } : Valve).strokeTime = 45 ∧ ({ valve with strokeTime := 120 } : Valve).strokeTime = 120 ∧
    ({ valve with strokeTime := 90 } : Valve).strokeTime = 90 := by decide

theorem test_meets_StrokeTimersFaultTheStroke :
    (plain.Settled ∧ (withValve (tested .issued)).Canonical) ∧ (tested .issued).inStroke = true ∧ valve.inStroke = false ∧
    timerDue (some 50) 50 = true ∧ timerDue (some 50) 49 = false :=
  ⟨⟨plain_settled, canonical_of (by decide)⟩, by decide⟩

theorem test_meets_ArbiterKeepsTheSlotLimits :
    ({ plain with slots := List.range 12 } : Net).Canonical ∧
    (∀ r, ({ shut with purpose := .openUp } : Valve).report = some r → r.position ≤ shut.crossover) ∧
    (∃ r, ({ valve with purpose := .openUp } : Valve).report = some r ∧ valve.crossover < r.position) ∧
    (List.range 12).length ≤ 12 ∧
    ({ plain with slots := [7, 7, 7] } : Net).slots.countP (fun v => decide (6 ≤ (plain.valve v).diameter)) ≤ 3 ∧
    valve.motion = .rest ∧ ((tested .waiting).motion ≠ .rest ∧ (tested .waiting).motion ≠ .fault) ∧
    ({ valve with purpose := .close } : Valve).purpose = .close ∧ (tested .waiting).purpose = .testOut :=
  ⟨{ plain_canonical with }, fun _ h => by cases h; decide, ⟨report, rfl, by decide⟩, by decide⟩

/-- Arbitration with every slot taken, with a large valve passed over for a small one, and with large valves alone in the queues. -/
theorem test_meets_ArbiterKeepsTheSlotLimits_grants :
    let n := { plain with slots := [7, 7, 7], queue := ⟨[], [7], [8]⟩ }
    let barred := fun v => 6 ≤ (n.valve v).diameter ∧ 3 ≤ n.slots.countP (fun u => decide (6 ≤ (n.valve u).diameter))
    12 ≤ ({ plain with slots := List.range 12 } : Net).slots.length ∧ n.slots.length < 12 ∧
    (n.queue.close ++ n.queue.openUp ++ n.queue.test)[1]? = some 8 ∧ ¬ barred 8 ∧
    (∀ u ∈ (n.queue.close ++ n.queue.openUp ++ n.queue.test).take 1, barred u) ∧ ∀ v ∈ [7], barred v := by decide

theorem test_meets_HandbackComparesWithMemory :
    (plain.valve 7).inStroke = false ∧ valve.confirmedOpen plain.params = true ∧ shut.confirmedClosed plain.params = true ∧
    1000 - plain.params.openTolerance ≤ field 980 0 10 ∧ field 10 0 10 ≤ plain.params.closedTolerance ∧
    field 1001 0 10 = 1001 ∧ ({ valve with report := none } : Valve).report = none := by decide

theorem test_meets_StoredReportIsJudgedByTheMotion :
    let p := plain.params
    let held' : Valve := { valve with
      control := .controlled, holders := [2], seated := true, report := some { report with position := 41 } }
    let going (m : Motion) (u : Purpose) : Valve := { valve with motion := m, purpose := u, best := 800, reference := 995 }
    (valve.motion = .rest ∧ valve.control = .free) ∧
    (held'.motion = .rest ∧ held'.control = .controlled ∧ held'.holders ≠ [] ∧ held'.seated = true ∧
      ¬ held'.confirmedClosed p = true ∧ p.closedTolerance + p.breachMargin < 41 ∧ ¬ p.closedTolerance + p.breachMargin < 40) ∧
    (({ shut with control := .handbackPending } : Valve).control ≠ .free ∧ shut.confirmedClosed p = true ∧ shut.motion = .rest) ∧
    (going .waiting .openUp).endReached p 990 = true ∧ (going .issued .openUp).endReached p 990 = true ∧
    (going .travel .openUp).endReached p 990 = true ∧ (going .waiting .close).endReached p 990 = false ∧
    (going .issued .close).endReached p 990 = false ∧ (going .travel .close).endReached p 990 = false ∧
    (({ report with torque := true } : Report).torque = true ∧ report.torque = false) ∧
    (going .travel .close).reversed p (800 + p.reverseTolerance + 1) = true ∧
    (going .travel .close).reversed p (800 + p.reverseTolerance) = false ∧
    (({ valve with motion := .fault } : Valve).holders = [] ∧ valve.confirmedOpen p = true ∧
      ({ valve with report := some { report with position := 500 } } : Valve).confirmedOpen p = false) ∧
    ({ held' with motion := .fault } : Valve).holders ≠ [] ∧
    (going .travel .testOut).motion ≠ .waiting ∧ 990 + p.progressStep ≤ 995 ∧ 995 < 991 + p.progressStep ∧
    ¬ ((going .travel .openUp).purpose = .close ∨ (going .travel .openUp).purpose = .testOut) ∧
    995 + p.progressStep ≤ 1000 ∧ 999 < 995 + p.progressStep ∧
    (going .travel .testBack).purpose = .testBack := by decide

theorem test_meets_StrokesCompleteChangePhaseAndFault :
    let going (m : Motion) (u : Purpose) (ph : Phase) : Valve := { valve with motion := m, purpose := u, phase := ph }
    let down : Image := ⟨0, 166, .close, 1, .close, false⟩
    let up : Image := ⟨1000, 41, .openUp, 1, .openUp, false⟩
    (∀ r, ({ shut with purpose := .testOut } : Valve).report = some r → r.position ≤ shut.crossover) ∧
    (∃ r, (going .travel .testOut .fine).report = some r ∧ valve.crossover < r.position) ∧
    ((going .travel .close .fine).motion ≠ .waiting ∧ (going .waiting .close .coarse).motion = .waiting) ∧
    (going .travel .openUp .fine).purpose = .openUp ∧ (going .travel .testBack .fine).purpose = .testBack ∧
    (150 ≤ valve.crossover ∧ down.target < valve.crossover) ∧ ¬ (151 ≤ valve.crossover ∧ down.target < valve.crossover) ∧
    (valve.crossover < 151 ∧ valve.crossover < up.target) ∧ ¬ (valve.crossover < 150 ∧ valve.crossover < up.target) ∧
    ({ going .issued .close .coarse with image := some down } : Valve).image = some down ∧
    (7 ∈ ({ plain with slots := [7] } : Net).slots ∧ 7 ∉ plain.slots) ∧
    (([7].filter fun k => decide (k ≠ 7)) = [] ∧ (going .travel .close .fine).inStroke = true ∧
      (going .travel .close .fine).purpose = .close) ∧
    ([3, 7].filter fun k => decide (k ≠ 7)) ≠ [] :=
  ⟨fun _ h => by cases h; decide, ⟨report, rfl, by decide⟩, by decide⟩

/-- The end of a release owner's valve: the last of a release, one of several, and one of an incident that is FAILED meanwhile. -/
theorem test_meets_StrokesCompleteChangePhaseAndFault_releases :
    let releasing : Incident := { held with state := .releasing, reopen := 1 }
    plain.Canonical ∧ ((tested .travel).underTest = true ∧ valve.underTest = false) ∧ valve.releaseOwner = none ∧
    ({ valve with releaseOwner := some 7 } : Valve).releaseOwner = some 7 ∧
    (((withIncident 7 releasing).incident 7).state = .releasing ∧ ((withIncident 7 releasing).incident 7).reopen - 1 = 0) ∧
    ((withIncident 7 { releasing with reopen := 2 }).incident 7).reopen - 1 ≠ 0 ∧ held.state ≠ .releasing :=
  ⟨plain_canonical, by decide⟩

def running (j : Job) (n : Net) : Net := { n with walker := some ⟨j, false⟩ }

/-- One SOURCE node and a junction joined by a valve, STAGED. -/
def stagedNet : Net :=
  { nodes := [(1, { tag := .staged }), (2, { tag := .staged, kind := .source })], valves := [(7, { valve with tag := .staged })] }

theorem test_meets_ValidationsAdoptOrReport :
    ({ net := running .adoptTopology stagedNet } : State).Canonical ∧ (running .adoptTopology stagedNet).Settled ∧
    runningJob (running .adoptTopology stagedNet) = some .adoptTopology ∧ .adoptTopology ∉ stagedNet.jobs ∧
    topologyFailure stagedNet = none ∧ topologyFailure {} ≠ none ∧ runningJob (running .adoptSensors {}) = some .adoptSensors ∧
    .adoptSensors ∉ ({} : Net).jobs ∧ sensorsFailure {} = none ∧
    sensorsFailure { cells := [(2, { tag := .staged, centre := 4096 })] } ≠ none ∧
    runningJob (running .crossCheck plain) = some .crossCheck ∧ crossFailure plain = none ∧
    crossFailure { plain with nodes := [] } ≠ none := by
  refine ⟨⟨rfl, rfl, rfl, rfl, rfl, canonical_of (by decide)⟩, ⟨rfl, by decide⟩, ?_⟩; decide

/-- The second half that is adopted starts the cross-check; the first starts nothing. -/
theorem test_second_adoption_starts_the_cross_check :
    let next := fun adopted => (after .topologyValidationCompletion
      { net := { running .adoptTopology stagedNet with sensorsAdopted := adopted } }).map fun t => t.net.walker
    next true = some (some ⟨.crossCheck, false⟩) ∧ next false = some none := by decide +kernel

/-- The entries that the checks of the three validations go through. -/
theorem test_meets_ValidationsAdoptOrReport_entries :
    Enumerates [] (fun k => (stagedNet.pipe k).tag = .staged) ∧ Enumerates [7] (fun k => (stagedNet.valve k).tag = .staged) ∧
    Enumerates [1, 2] (fun k => (stagedNet.node k).tag = .staged) ∧
    Enumerates [2] (fun k => (stagedNet.node k).tag = .staged ∧ (stagedNet.node k).kind = .source) ∧
    Enumerates [] (fun k => (stagedNet.node k).tag = .staged ∧ (stagedNet.node k).guarded = true) ∧
    Enumerates [2] (fun k => (staged.cell k).tag = .staged) ∧ Enumerates [5] (fun k => (plain.sensor k).tag = .adopted) ∧
    Enumerates [2] fun k => (plain.cell k).tag = .adopted :=
  ⟨enumerates_of (q := fun _ (x : Pipe) => x.tag = .staged) rfl (fun _ => by decide) rfl,
    enumerates_of (q := fun _ (x : Valve) => x.tag = .staged) rfl (fun _ => by decide) rfl,
    enumerates_of (q := fun _ (x : Node) => x.tag = .staged) rfl (fun _ => by decide) rfl,
    enumerates_of (q := fun _ (x : Node) => x.tag = .staged ∧ x.kind = .source) rfl (fun _ => by decide) rfl,
    enumerates_of (q := fun _ (x : Node) => x.tag = .staged ∧ x.guarded = true) rfl (fun _ => by decide) rfl,
    enumerates_of (q := fun _ (x : Cell) => x.tag = .staged) rfl (fun _ => by decide) rfl,
    enumerates_of (q := fun _ (x : Sensor) => x.tag = .adopted) rfl (fun _ => by decide) rfl,
    enumerates_of (q := fun _ (x : Cell) => x.tag = .adopted) rfl (fun _ => by decide) rfl⟩

theorem test_meets_WalksAndSupplyChecksComplete :
    let checked := { held with state := .checking, generation := 3 }
    ({ net := running (.supply 7 3) (withIncident 7 checked) } : State).Canonical ∧ plain.Settled ∧
    ((∀ i level, runningJob (running .crossCheck plain) ≠ some (.boundary i level)) ∧
      (∀ i g, runningJob { plain with walker := some ⟨.supply 7 0, true⟩ } ≠ some (.supply i g)) ∧
      ∀ j, (running (.supply 7 0) plain).walker ≠ some ⟨j, true⟩) ∧
    runningJob (running (.boundary 7 0) plain) = some (.boundary 7 0) ∧ runningJob (running (.supply 7 3) plain) = some (.supply 7 3) ∧
    (3#16 : BitVec 16) ≠ ((withIncident 7 held).incident 7).generation ∧ ((withIncident 7 checked).incident 7).state = .checking ∧
    ((withIncident 7 { checked with state := .failed }).incident 7).state ≠ .checking ∧
    ({ plain with walker := some ⟨.boundary 7 0, true⟩ } : Net).walker = some ⟨.boundary 7 0, true⟩ ∧ plain.walker = none ∧
    ({ held with policy := .confirm } : Incident).policy = .confirm ∧ held.policy = .auto ∧ [1] ≠ ([] : List Nat) ∧
    runningJob (running .crossCheck plain) ≠ some .adoptTopology ∧ runningJob plain ≠ some .adoptSensors ∧
    runningJob { plain with walker := some ⟨.crossCheck, true⟩ } ≠ some .crossCheck :=
  ⟨⟨rfl, rfl, rfl, rfl, rfl, canonical_of (by decide)⟩, plain_settled,
    ⟨fun _ _ h => (nomatch h), fun _ _ h => (nomatch h), fun _ h => (nomatch h)⟩, by decide⟩

/-- An idle walker with no job, with a job that is dropped, with one that pushes a frame and with one that does not. -/
theorem test_meets_WalksAndSupplyChecksComplete_jobs :
    let failed := { withIncident 7 { held with state := .failed } with jobs := [.supply 7 0] }
    (plain.walker = none ∧ plain.jobs = []) ∧ ¬ (running .crossCheck plain).walker = none ∧
    (failed.jobs = [.supply 7 0] ∧ Job.incident (.supply 7 0) = some 7 ∧ (failed.incident 7).state = .failed) ∧
    ((plain.incident 7).state ≠ .failed ∧ Job.boundary 7 1 = .boundary 7 (0 + 1)) ∧
    ∀ i level, Job.boundary 7 0 ≠ .boundary i (level + 1) :=
  ⟨by decide, by decide, by decide, by decide, fun _ _ h => (nomatch h)⟩

/-- The plant with its junction and its pipe 0 owned. -/
def owned (a b : Option Owner) : Net :=
  { withIncident 7 { held with state := .searching } with
    nodes := [(1, { tag := .adopted, owner := a }), (2, { tag := .adopted, kind := .source })]
    pipes := [(0, { tag := .adopted, endA := 1, endB := 2, owner := b })] }

/-- A record of an incident whose one frame holds `k` nodes and pipes and the boundary valves of `l`. -/
def region (k : Nat) (l : List Nat) : Incident :=
  { state := .searching, origins := [⟨1, none, 0⟩], frames := [⟨0, [], [1], l.map fun v => ⟨v, false⟩, k, k, false⟩] }

theorem test_meets_WalkTakesNodesPipesAndValves :
    (∃ f, (region 1 ((List.range 16).map (· + 8))).frames[0]? = some f ∧ 16 ≤ f.boundary.length) ∧ plain.Canonical ∧
    ((plain.node 2).kind = .source ∧ (plain.node 1).kind = .junction ∧ (plain.node 1).owner = none) ∧
    (((owned (some ⟨7, 0⟩) none).node 1).owner = some ⟨7, 0⟩ ∧ ((owned (some ⟨3, 1⟩) none).node 1).owner = some ⟨3, 1⟩ ∧
      (3 : Nat) ≠ 7 ∧ ((owned none none).incident 7).state ≠ .failed ∧ ({ held with state := .failed } : Incident).state = .failed) ∧
    (((owned none (some ⟨7, 0⟩)).pipe 0).owner = some ⟨7, 0⟩ ∧ ((owned none (some ⟨3, 1⟩)).pipe 0).owner = some ⟨3, 1⟩ ∧
      (plain.pipe 0).owner = none) ∧
    (512 ≤ (region 512 []).ownedNodes ∧ (region 511 []).ownedNodes < 512 ∧ 512 ≤ (region 512 []).ownedPipes ∧
      (region 511 []).ownedPipes < 512) ∧
    (∃ f ∈ (region 1 [7]).frames, ∃ b ∈ f.boundary, b.valve = 7) ∧
    ¬ ∃ f ∈ (region 1 (List.range 7)).frames, ∃ b ∈ f.boundary, b.valve = 7 :=
  ⟨⟨_, rfl, by decide⟩, plain_canonical, by decide⟩

/-- Valves that a walk may and may not use, and valves that gain a holder. -/
theorem test_meets_WalkTakesNodesPipesAndValves_valves :
    (valve.tag = .adopted ∧ (valve.health = .good ∨ valve.health = .untested) ∧ (∀ f ∈ (region 1 []).frames, 7 ∉ f.causes) ∧
      7 ∉ (region 1 []).pendingCauses) ∧
    ¬ (({ valve with health := .seized } : Valve).health = .good ∨ ({ valve with health := .seized } : Valve).health = .untested) ∧
    ((⟨plain, 7, 0, [], [], true⟩ : Walk).ended = true ∧ (⟨plain, 7, 0, [1], [], false⟩ : Walk).frontier = 1 :: []) ∧
    [1, 3].Pairwise (· < ·) ∧ ({ valve with motion := .travel, purpose := .close } : Valve).inStroke = true ∧
    ((tested .travel).inStroke = true ∧ (tested .travel).purpose ≠ .close) ∧
    (valve.inStroke = false ∧ valve.control = .free ∧
      ({ valve with control := .handbackPending } : Valve).control = .handbackPending) ∧
    valve.releaseOwner = none ∧ ({ valve with releaseOwner := some 3 } : Valve).releaseOwner = some 3 := by decide

/-- Incident 7 walks, with `k` nodes and pipes, and meets incident 3, with the boundary valves of `l`. -/
def meeting (k : Nat) (l : List Nat) : Net := { plain with incidents := [(3, region 13 l), (7, region k [7])] }

theorem test_meets_FoldMovesAnIncidentIntoTheSurvivor :
    (meeting 499 []).Canonical ∧
    (∃ f, ((meeting 1 ((List.range 16).map (· + 8))).incident 3).frames[((meeting 1 []).incident 3).depth]? = some f ∧
      16 ≤ f.boundary.length) ∧
    (7 : Nat) ≠ 3 ∧
    ¬ 512 < ((modFrame 3 0 (fun f => { f with regionNodes := f.regionNodes + 499 }) (meeting 499 [])).incident 3).ownedNodes ∧
    512 < ((modFrame 3 0 (fun f => { f with regionNodes := f.regionNodes + 500 }) (meeting 500 [])).incident 3).ownedNodes ∧
    (∃ f ∈ ((meeting 1 [7]).incident 3).frames, ∃ c ∈ f.boundary, c.valve = 7) ∧
    (¬ ∃ f ∈ ((meeting 1 [8]).incident 3).frames, ∃ c ∈ f.boundary, c.valve = 7) ∧
    ((loseHolder ⟨0, []⟩ 7 7 plain).valve 7).holders = [] ∧
    ((loseHolder ⟨0, []⟩ 7 7 (withValve { valve with holders := [3, 7] })).valve 7).holders ≠ [] ∧
    7 ∉ (region 1 []).pendingCauses ∧ 8 ≤ ({ region 1 [] with pendingCauses := List.range 8 } : Incident).pendingCauses.length ∧
    3 ∉ [7] :=
  ⟨canonical_of (by decide), ⟨_, rfl, by decide⟩, by decide⟩

theorem test_meets_SupplyFloodsFindTheNewlyCutNodes :
    plain.Canonical ∧
    (({ withIncident 7 held with valves := [(7, { valve with holders := [7] })] } : Net).valve 7).holders = [7] ∧
    (∃ b, ((withIncident 7 held).incident 7).entry 7 = some (false, b)) ∧ ¬ (valve.holders = [7]) :=
  ⟨plain_canonical, by decide, ⟨_, rfl⟩, by decide⟩

/-- The premises of the statements about every step, at a state with a command in front. -/
theorem test_meets_the_step_statements :
    let s : State := { pending := [.timeCounterAdvance], net := plain }
    s.Canonical ∧ s.net.Settled ∧ s.net.Working ∧ s.net.AttnFollows ∧ s.net.slots.length ≤ 12 ∧ s.refusals.length ≤ 8 ∧
    s.refusalCount ≤ 65535 ∧ (s.refusalCount < 65535 → s.refusals.length ≤ s.refusalCount) ∧
    step s = .next { s with pending := [], time := 1 } := by
  refine ⟨⟨rfl, rfl, rfl, rfl, rfl, plain_canonical⟩, plain_settled, fun _ => rfl, ⟨?_, fun _ => rfl, fun h => (nomatch h)⟩, by decide,
    by decide, by decide, by decide, rfl⟩
  refine ⟨fun h => (nomatch h), fun ⟨k, _, hf, _⟩ => ?_⟩
  cases hf

theorem test_meets_NoticesAreTakenAndLeaveWhatLasts :
    let pending := { plain with agenda := ⟨[⟨7, true⟩], [], [5]⟩ }
    plain.Canonical ∧ (plain.agenda.valves = [] ∧ plain.agenda.sensors = []) ∧
    (pending.agenda.valves = ⟨7, true⟩ :: [] ∧ pending.agenda.sensors ≠ []) ∧
    (valve.holders = [] ∧ ({ valve with holders := [7] } : Valve).holders ≠ []) ∧
    ((∀ a ∈ plain.agenda.valves, a.valve ≠ 7) ∧ ∃ a ∈ pending.agenda.valves, a.valve = 7) ∧
    (pending.agenda.sensors.Pairwise (· < ·) ∧ 7 ∉ pending.agenda.incidents ∧
      7 ∈ (noteIncident 7 pending).agenda.incidents) :=
  ⟨plain_canonical, by decide⟩

/-- The forms of a valve notice: a valve of no frame, a failed one, and one that is recorded, fails the incident or closes again. -/
theorem test_meets_NoticesAreTakenAndLeaveWhatLasts_valves :
    let freeing : Incident := { held with state := .releasing }
    let shutting := closing.withFailed 7 false
    let listing := fun (r : Incident) (v : Nat) => ∀ f ∈ r.frames, ∀ b ∈ f.boundary, b.valve ≠ v
    (held.entry 8 = none ∧ listing held 8 ∧ held.entry 7 = some (false, ⟨7, false⟩) ∧ closing.entry 7 = some (true, ⟨7, true⟩)) ∧
    (held.state = .held ∧ held.pendingCauses.length < 8 ∧
      8 ≤ ({ held with pendingCauses := List.range 8 } : Incident).pendingCauses.length) ∧
    ¬ (freeing.state = .searching ∨ freeing.state = .checking ∨ freeing.state = .held ∨ freeing.state = .closing ∨
      freeing.state = .isolated) ∧
    (shutting.state = .closing ∧ shutting.entry 7 = some (true, ⟨7, false⟩) ∧ valve.motion = .rest ∧
      valve.confirmedClosed plain.params = false) ∧
    shut.confirmedClosed plain.params = true := by decide

/-- Escalation called for at depth 0 and at depth 3, and not called for. -/
theorem test_meets_NoticesAreTakenAndLeaveWhatLasts_escalation :
    let r := { isolated with pendingCauses := [7] }
    let called := fun (r : Incident) =>
      (r.state = .held ∨ r.state = .closing ∨ r.state = .isolated) ∧ r.pendingCauses ≠ [] ∧ r.marker = .none
    called r ∧ r.depth < 3 ∧ called { r with depth := 3 } ∧ 3 ≤ ({ r with depth := 3 } : Incident).depth ∧ ¬ called isolated ∧
    ¬ called { r with marker := .queued } := by decide

end Sys2Proof.Tests
end

section
/-! SUPPORT. Every command completes, the reset state, and the invariants at reset. -/

namespace Sys2Proof.Machine

/-! ### Steps and reset -/

/-- An advance has a next state and leaves the commands that wait: under reset the state stands, else the expiries leave them. -/
theorem exec_timeCounterAdvance_pending (s : State) : ∃ t, exec .timeCounterAdvance s = .next t ∧ t.pending = s.pending := by
  refine ⟨_, rfl, ?_⟩
  cases s.resetAsserted with
  | true => rfl
  | false => exact (State.Outer.refl s).expireAll.pending

/-- Settles O2: the two reset commands and the advance by themselves, every other command because accesses and events leave the
queue. -/
theorem everyCommandCompletesAndKeepsTheQueue : Obligations.EveryCommandCompletesAndKeepsTheQueue := by
  intro c s
  by_cases h1 : c = .resetNAssert
  · subst h1; exact ⟨_, rfl, rfl⟩
  by_cases h2 : ∃ a l, c = .resetNRelease a l
  · obtain ⟨a, l, rfl⟩ := h2; exact ⟨_, rfl, rfl⟩
  by_cases h3 : c = .timeCounterAdvance
  · subst h3; exact exec_timeCounterAdvance_pending s
  obtain ⟨t, ht, outer⟩ := exec_outer c s h1 (fun a l h => h2 ⟨a, l, h⟩) h3
  exact ⟨t, ht, outer.pending⟩

/-- At reset every latch and buffer word is 0 and unmarked (R29). -/
theorem latch_reset (r : RecordWord) : State.reset.latch r = ⟨0, false⟩ := by cases r <;> rfl

/-- Settles O3: every table of the reset state is empty, so that each entry reads as its device-reset entry. -/
theorem resetStateAsSpecified : Obligations.ResetStateAsSpecified := by
  refine ⟨⟨⟨rfl, rfl, rfl, rfl, rfl, rfl, rfl, rfl, rfl, latch_reset, fun _ => rfl, rfl⟩, ?_⟩, fun s => ⟨rfl, fun _ _ => rfl⟩⟩
  refine ⟨⟨rfl, rfl, rfl, rfl, rfl, rfl, rfl, rfl, rfl, rfl, rfl⟩, fun _ => rfl, fun _ => rfl, fun _ => rfl, fun _ => rfl,
    fun _ => rfl, fun _ => rfl, ⟨rfl, rfl, rfl, rfl, rfl, rfl, rfl, rfl, rfl⟩, fun _ => rfl, rfl, rfl, rfl, rfl⟩

/-- ATTN at reset is what judging gives, for no cause flag is set (R183). -/
theorem attnFollows_reset : State.reset.net.AttnFollows := judgeAttn_follows State.reset.net

/-- Settles O59: at reset no table holds an entry, nothing waits, runs or is raised, and RESET_N is released. -/
theorem invariantsHoldAtReset : Obligations.InvariantsHoldAtReset :=
  ⟨⟨rfl, rfl, rfl, rfl, rfl, Net.Canonical.reset⟩, attnFollows_reset, ⟨rfl, fun _ _ => rfl⟩, fun _ => rfl, by decide, by decide,
    by decide, fun _ => by decide, fun h => nomatch h⟩

end Sys2Proof.Machine
end

section
/-! SUPPORT. The checks of an image record in order, and what an accepted or refused record leaves (R2 to R14). -/

namespace Sys2Proof.Machine

/-! ### The checks of an image record (R10) -/

theorem imageRefusal_badKind (n : Net) {r : ImageRecord} (h : ImageKind.ofCode r.kind = none) :
    imageRefusal n r = some .badKind := by
  unfold imageRefusal; rw [h]

section

variable {n : Net} {r : ImageRecord} {k : ImageKind} (hk : ImageKind.ofCode r.kind = some k)
include hk

/-- The checks of a record of a known kind, in their order. -/
theorem imageRefusal_of_kind : imageRefusal n r =
    if !k.idInRange r.id then some .fieldRange
    else if halfAdopted n k then some .adopted
    else if halfMarker n k ≠ .none then some .adopting
    else if r.delete then (if deletable n k r then none else some .noEntry)
    else if !r.fieldsInRange k then some .fieldRange
    else if k = .cellMeter then meterRefusal n r
    else none := by
  unfold imageRefusal; rw [hk]

theorem imageRefusal_idOutOfRange (hi : k.idInRange r.id = false) : imageRefusal n r = some .fieldRange := by
  simp [imageRefusal_of_kind hk, hi]

variable (hi : k.idInRange r.id = true)
include hi

theorem imageRefusal_adopted (ha : halfAdopted n k = true) : imageRefusal n r = some .adopted := by
  simp [imageRefusal_of_kind hk, hi, ha]

variable (ha : halfAdopted n k = false)
include ha

theorem imageRefusal_adopting (hm : halfMarker n k ≠ .none) : imageRefusal n r = some .adopting := by
  simp [imageRefusal_of_kind hk, hi, ha, hm]

variable (hm : halfMarker n k = .none)
include hm

theorem imageRefusal_delete (hd : r.delete = true) :
    imageRefusal n r = if deletable n k r then none else some .noEntry := by
  simp [imageRefusal_of_kind hk, hi, ha, hm, hd]

variable (hd : r.delete = false)
include hd

theorem imageRefusal_fieldOutOfRange (hf : r.fieldsInRange k = false) : imageRefusal n r = some .fieldRange := by
  simp [imageRefusal_of_kind hk, hi, ha, hm, hd, hf]

theorem imageRefusal_inRange (hf : r.fieldsInRange k = true) :
    imageRefusal n r = if k = .cellMeter then meterRefusal n r else none := by
  simp [imageRefusal_of_kind hk, hi, ha, hm, hd, hf]

end

/-- A cell's list holds a sensor. -/
theorem any_meter_iff {ms : List Meter} {x : Nat} : (ms.any fun m => m.sensor == x) = true ↔ ∃ m ∈ ms, m.sensor = x := by simp

/-- The three checks that a CELL_METER record has beside the others (R10). -/
theorem meterRefusal_cases (n : Net) (r : ImageRecord) :
    ((n.cell r.id).tag = .empty → meterRefusal n r = some .noEntry) ∧
    ((n.cell r.id).tag ≠ .empty → (∃ m ∈ (n.cell r.id).meters, m.sensor = r.meterSensor) → meterRefusal n r = some .duplicate) ∧
    ((n.cell r.id).tag ≠ .empty → (∀ m ∈ (n.cell r.id).meters, m.sensor ≠ r.meterSensor) →
      12 ≤ (n.cell r.id).meters.length → meterRefusal n r = some .listFull) ∧
    ((n.cell r.id).tag ≠ .empty → (∀ m ∈ (n.cell r.id).meters, m.sensor ≠ r.meterSensor) →
      (n.cell r.id).meters.length < 12 → meterRefusal n r = none) := by
  unfold meterRefusal Config.maxMeters
  refine ⟨fun ht => if_pos ht, fun ht hm => ?_, fun ht hm hl => ?_, fun ht hm hl => ?_⟩
  · rw [if_neg ht, if_pos (any_meter_iff.2 hm)]
  · rw [if_neg ht, if_neg fun h => ?_, if_pos hl]
    obtain ⟨m, hmem, he⟩ := any_meter_iff.1 h
    exact hm m hmem he
  · rw [if_neg ht, if_neg fun h => ?_, if_neg (by omega)]
    obtain ⟨m, hmem, he⟩ := any_meter_iff.1 h
    exact hm m hmem he

/-- The seven kinds have the codes 1 to 7 (R197). -/
theorem ofCode_succ (code : Nat) :
    ImageKind.ofCode (code + 1) = [ImageKind.globals, .node, .pipe, .valve, .sensor, .cell, .cellMeter][code]? := by
  match code with
  | 0 | 1 | 2 | 3 | 4 | 5 | 6 => rfl
  | _ + 7 => rfl

theorem idInRange_iff (k : ImageKind) (id : Nat) : k.idInRange id = true ↔ match k with
    | .globals => True
    | .node => id < 4096
    | .pipe => id < 8192
    | .valve => id < 2048
    | .sensor => id < 1024
    | .cell | .cellMeter => id < 64 := by
  cases k with
  | globals => exact iff_of_true rfl trivial
  | _ => exact decide_eq_true_iff

theorem deletable_iff (n : Net) (k : ImageKind) (r : ImageRecord) : deletable n k r = true ↔ match k with
    | .globals => n.globals.tag = .staged
    | .node => (n.node r.id).tag = .staged
    | .pipe => (n.pipe r.id).tag = .staged
    | .valve => (n.valve r.id).tag = .staged
    | .sensor => (n.sensor r.id).tag = .staged
    | .cell => (n.cell r.id).tag = .staged
    | .cellMeter => (n.cell r.id).tag = .staged ∧ ∃ m ∈ (n.cell r.id).meters, m.sensor = r.meterSensor := by
  cases k with
  | cellMeter => exact (Bool.and_eq_true _ _).to_iff.trans (and_congr decide_eq_true_iff any_meter_iff)
  | _ => exact decide_eq_true_iff

theorem half_of_kind (n : Net) (k : ImageKind) : match k with
    | .globals | .node | .pipe | .valve => halfAdopted n k = n.topologyAdopted ∧ halfMarker n k = n.topologyMarker
    | .sensor | .cell | .cellMeter => halfAdopted n k = n.sensorsAdopted ∧ halfMarker n k = n.sensorsMarker := by
  cases k <;> exact ⟨rfl, rfl⟩

theorem within_iff {lo hi v : Nat} : within lo hi v = true ↔ lo ≤ v ∧ v ≤ hi := by simp [within]

/-- A crossover is in range as stored when it is 0, which stands for 150, or in range itself (R4, R11). -/
theorem storedCrossover_within {v : Nat} : within 50 500 (storedCrossover v) = true ↔ v = 0 ∨ (50 ≤ v ∧ v ≤ 500) := by
  rw [within_iff]; unfold storedCrossover; split <;> omega

theorem fieldsInRange_globals (r : ImageRecord) : r.fieldsInRange .globals = true ↔
    field r.w0 0 8 ≤ 50 ∧ field r.w0 8 8 ≤ 100 ∧ (1 ≤ field r.w0 16 8 ∧ field r.w0 16 8 ≤ 50) ∧
    (5 ≤ field r.w0 24 8 ∧ field r.w0 24 8 ≤ 100) ∧ (10 ≤ field r.w1 0 16 ∧ field r.w1 0 16 ≤ 600) ∧
    (10 ≤ field r.w1 16 16 ∧ field r.w1 16 16 ≤ 600) ∧ (5 ≤ field r.w2 0 16 ∧ field r.w2 0 16 ≤ 200) ∧
    (110 ≤ field r.w2 16 16 ∧ field r.w2 16 16 ≤ 400) := by
  simp only [ImageRecord.fieldsInRange, Bool.and_eq_true, within_iff, Nat.zero_le, true_and, and_assoc]

theorem fieldsInRange_node (r : ImageRecord) : r.fieldsInRange .node = true ↔ field r.w0 0 2 ≤ 1 := by
  simp only [ImageRecord.fieldsInRange, within_iff, Nat.zero_le, true_and]

theorem fieldsInRange_valve (r : ImageRecord) : r.fieldsInRange .valve = true ↔
    (1 ≤ field r.w1 0 4 ∧ field r.w1 0 4 ≤ 8) ∧ field r.w1 4 2 ≤ 1 ∧ (2 ≤ field r.w1 8 5 ∧ field r.w1 8 5 ≤ 16) ∧
    (field r.w1 16 10 = 0 ∨ (50 ≤ field r.w1 16 10 ∧ field r.w1 16 10 ≤ 500)) ∧
    (10 ≤ field r.w2 0 16 ∧ field r.w2 0 16 ≤ 3600) := by
  simp only [ImageRecord.fieldsInRange, Bool.and_eq_true, storedCrossover_within]
  simp only [within_iff, Nat.zero_le, true_and, and_assoc]

/-- A field is below the power of its width. -/
theorem field_lt (w : Word) (lo width : Nat) : field w lo width < 2 ^ width := Nat.mod_lt _ (Nat.two_pow_pos _)

theorem fieldsInRange_sensor (r : ImageRecord) : r.fieldsInRange .sensor = true ↔
    field r.w0 0 2 ≤ 1 ∧ field r.w0 2 2 ≤ 1 ∧ (2 ≤ field r.w1 8 4 ∧ field r.w1 8 4 ≤ 8) ∧ 1 ≤ field r.w1 16 15 ∧
    (1 ≤ field r.w2 0 10 ∧ field r.w2 0 10 ≤ 600) ∧ (10 ≤ field r.w2 10 12 ∧ field r.w2 10 12 ≤ 3000) ∧
    (4 ≤ field r.w2 22 7 ∧ field r.w2 22 7 ≤ 64) := by
  have threshold : field r.w1 16 15 ≤ 32767 := Nat.le_of_lt_succ (field_lt ..)
  simp only [ImageRecord.fieldsInRange, Bool.and_eq_true, within_iff, Nat.zero_le, true_and, threshold, and_true, and_assoc]

theorem fieldsInRange_cell (r : ImageRecord) : r.fieldsInRange .cell = true ↔
    1 ≤ field r.w0 0 16 ∧ (1 ≤ field r.w0 16 10 ∧ field r.w0 16 10 ≤ 600) ∧ field r.w1 0 13 ≤ 6000 ∧
    (-1000000 ≤ r.w2.toInt ∧ r.w2.toInt ≤ 1000000) := by
  have threshold : field r.w0 0 16 ≤ 65535 := Nat.le_of_lt_succ (field_lt ..)
  simp only [ImageRecord.fieldsInRange, Bool.and_eq_true, decide_eq_true_eq, within_iff, Nat.zero_le, true_and, threshold, and_true,
    and_assoc]
  exact Iff.rfl

theorem fieldsInRange_cellMeter (r : ImageRecord) : r.fieldsInRange .cellMeter = true ↔
    field r.w0 0 16 ≤ 1023 ∧ (field r.w0 16 2 = 1 ∨ field r.w0 16 2 = 2) := by
  simp only [ImageRecord.fieldsInRange, ImageRecord.meterSensor, ImageRecord.orientation, Bool.and_eq_true, within_iff]
  omega

/-! ### An image record taken (R10 to R14) -/

theorem takeImageRecord_refused (e : Env) (slot : Nat) {w0 w1 w2 w3 : Word} {n : Net} {why : RecordReason}
    (h : imageRefusal n (imageRecordOf w0 w1 w2 w3) = some why) : takeImageRecord e slot w0 w1 w2 w3 n =
      recordError e .image why { slot := some slot, kind := some (field w3 0 4), id := some (field w3 16 16) } n := by
  unfold takeImageRecord; dsimp only; rw [h]; rfl

/-- A record error gives no notice and leaves the incidents. -/
theorem settle_recordError {n : Net} (e : Env) (h : n.Settled) (w : Window) (why : RecordReason) (rest : LastError) :
    settle e (recordError e w why rest n) = judgeAttn (recordError e w why rest n) := settle_as e h rfl rfl

/-- Settles O13: each check by the branch of the chain that it guards, each range kind by kind, and the refused record by its
record error, which gives no notice. -/
theorem imageChecksRunInOrder : Obligations.ImageChecksRunInOrder := by
  refine ⟨fun n r => ⟨imageRefusal_badKind n, fun k hk => ?_⟩, fun n k r code => ?_, fun r => ?_, ?_⟩
  · refine ⟨imageRefusal_idOutOfRange hk, imageRefusal_adopted hk, imageRefusal_adopting hk, fun hi ha hm => ?_⟩
    obtain ⟨empty, duplicate, full, free⟩ := meterRefusal_cases n r
    refine ⟨fun hd hx => ?_, fun hd hx => ?_, imageRefusal_fieldOutOfRange hk hi ha hm, fun hd hf hc => ?_, fun hd hf hc => ?_⟩
    · rw [imageRefusal_delete hk hi ha hm hd, hx]; rfl
    · rw [imageRefusal_delete hk hi ha hm hd, if_pos hx]
    · rw [imageRefusal_inRange hk hi ha hm hd hf, if_neg hc]
    · rw [imageRefusal_inRange hk hi ha hm hd hf, if_pos hc]
      exact ⟨empty, duplicate, full, free⟩
  · exact ⟨rfl, ofCode_succ code, rfl, fun _ _ _ _ => rfl, idInRange_iff k r.id, half_of_kind n k, deletable_iff n k r⟩
  · exact ⟨fieldsInRange_globals r, fieldsInRange_node r, rfl, fieldsInRange_valve r, fieldsInRange_sensor r, fieldsInRange_cell r,
      fieldsInRange_cellMeter r⟩
  · intro s slot w0 w1 w2 w3 m why ready settled refused
    rw [exec_imageRecord ready, takeImageRecord_refused _ _ refused, settle_recordError _ settled]

/-- A record that is accepted is staged, or deleted by the entry's kind (R11 to R13). -/
theorem takeImageRecord_accepted (e : Env) (slot : Nat) {w0 w1 w2 w3 : Word} {n : Net} {k : ImageKind}
    (h : imageRefusal n (imageRecordOf w0 w1 w2 w3) = none) (hk : ImageKind.ofCode (field w3 0 4) = some k) :
    takeImageRecord e slot w0 w1 w2 w3 n =
      if flagBit w3 7 then deleteRecord k (imageRecordOf w0 w1 w2 w3) n else stageRecord k (imageRecordOf w0 w1 w2 w3) n := by
  have hk' : ImageKind.ofCode (imageRecordOf w0 w1 w2 w3).kind = some k := hk
  unfold takeImageRecord; dsimp only; rw [h, hk']; rfl

/-- Staging and deleting write one table or the GLOBAL entry: no notice is given and the incidents stay. -/
theorem stageRecord_aside (k : ImageKind) (r : ImageRecord) (n : Net) :
    (stageRecord k r n).agenda = n.agenda ∧ (stageRecord k r n).incidents = n.incidents := by cases k <;> exact ⟨rfl, rfl⟩

theorem deleteRecord_aside (k : ImageKind) (r : ImageRecord) (n : Net) :
    (deleteRecord k r n).agenda = n.agenda ∧ (deleteRecord k r n).incidents = n.incidents := by cases k <;> exact ⟨rfl, rfl⟩

section

variable {s : State} {slot : BitVec 12} {w0 w1 w2 w3 : Word} (ready : s.ImageReady slot w0 w1 w2) (settled : s.net.Settled)
  (taken : imageRefusal s.net (imageRecordOf w0 w1 w2 w3) = none)
include ready settled taken

/-- The word that completes an accepted record which is no delete (R11, R30). -/
theorem exec_imageRecord_staged (hd : flagBit w3 7 = false) (m : Master) {k : ImageKind}
    (hk : ImageKind.ofCode (field w3 0 4) = some k) : exec (.imageRecord slot w3 m) s =
      .next (s.afterRecord (.image slot 3) w3 m (judgeAttn (stageRecord k (imageRecordOf w0 w1 w2 w3) s.net))) := by
  obtain ⟨agenda, incidents⟩ := stageRecord_aside k (imageRecordOf w0 w1 w2 w3) s.net
  rw [exec_imageRecord ready, takeImageRecord_accepted _ _ taken hk, hd, if_neg (by decide), settle_as _ settled agenda incidents]

/-- The word that completes an accepted delete record (R12, R30). -/
theorem exec_imageRecord_deleted (hd : flagBit w3 7 = true) (m : Master) {k : ImageKind}
    (hk : ImageKind.ofCode (field w3 0 4) = some k) : exec (.imageRecord slot w3 m) s =
      .next (s.afterRecord (.image slot 3) w3 m (judgeAttn (deleteRecord k (imageRecordOf w0 w1 w2 w3) s.net))) := by
  obtain ⟨agenda, incidents⟩ := deleteRecord_aside k (imageRecordOf w0 w1 w2 w3) s.net
  rw [exec_imageRecord ready, takeImageRecord_accepted _ _ taken hk, hd, if_pos rfl, settle_as _ settled agenda incidents]

end

/-- The kind that a code stands for, once the field that holds it is known. -/
theorem ofCode_field {w : Word} {code : Nat} {k : ImageKind} (h : field w 0 4 = code) (hk : ImageKind.ofCode code = some k) :
    ImageKind.ofCode (field w 0 4) = some k := h ▸ hk

/-- Settles O14: the staged entry of each kind of the topology half is the update that its record spells. -/
theorem topologyRecordStagesItsEntry : Obligations.TopologyRecordStagesItsEntry := by
  intro s slot w0 w1 w2 w3 m ready settled taken hd
  have staged := fun k hk => exec_imageRecord_staged ready settled taken hd m (k := k) hk
  exact ⟨fun h => staged .globals (ofCode_field h rfl), fun h => staged .node (ofCode_field h rfl),
    fun h => staged .pipe (ofCode_field h rfl), fun h => staged .valve (ofCode_field h rfl)⟩

/-- Settles O15: the staged entry of each kind of the sensor half is the update that its record spells. -/
theorem sensorHalfRecordStagesItsEntry : Obligations.SensorHalfRecordStagesItsEntry := by
  intro s slot w0 w1 w2 w3 m ready settled taken hd
  have staged := fun k hk => exec_imageRecord_staged ready settled taken hd m (k := k) hk
  exact ⟨fun h => staged .sensor (ofCode_field h rfl), fun h => staged .cell (ofCode_field h rfl),
    fun h => staged .cellMeter (ofCode_field h rfl)⟩

/-- Settles O16: the deleted entry of each kind is the device-reset entry; a deleted meter leaves the rest of its cell. -/
theorem deleteRecordEmptiesItsEntry : Obligations.DeleteRecordEmptiesItsEntry := by
  intro s slot w0 w1 w2 w3 m ready settled taken hd
  have deleted := fun k hk => exec_imageRecord_deleted ready settled taken hd m (k := k) hk
  exact ⟨fun h => deleted .globals (ofCode_field h rfl), fun h => deleted .node (ofCode_field h rfl),
    fun h => deleted .pipe (ofCode_field h rfl), fun h => deleted .valve (ofCode_field h rfl),
    fun h => deleted .sensor (ofCode_field h rfl), fun h => deleted .cell (ofCode_field h rfl),
    fun h => deleted .cellMeter (ofCode_field h rfl)⟩

end Sys2Proof.Machine
end

section
/-! SUPPORT. The adoption requests, and REOPEN_IMAGE with what it takes back (R15, R22). -/

namespace Sys2Proof.Machine

/-! ### Validations queued (R15, R104, R105) -/

/-- A validation or cross-check joins the queue of a busy walker, and starts at once on an idle one, for whom no job waits. -/
theorem queueJob_image (e : Env) {j : Job} (hj : j.incident = none) {n : Net} (hw : n.Working) :
    queueJob e j n = if n.walker = none then setMarker j .running { n with walker := some ⟨j, false⟩ }
      else setMarker j .queued { n with jobs := n.jobs ++ [j] } := by
  by_cases h : n.walker = none
  · have jobs : n.jobs = [] := hw h
    rw [if_pos h]
    cases j with
    | boundary | supply => cases hj
    | _ => simp [queueJob, startJobs, startFrom, startJob, setMarker, dropsAtStart, Job.incident, h, jobs]
  · rw [if_neg h, queueJob_busy e j (Option.isSome_iff_ne_none.2 h)]

/-- Queueing a validation or the cross-check gives no notice and leaves the incidents. -/
theorem settle_queueJob_image (e : Env) {j : Job} (hj : j.incident = none) {n : Net} (hw : n.Working) (hs : n.Settled) :
    settle e (queueJob e j n) = judgeAttn (queueJob e j n) := by
  refine settle_as e hs ?_ ?_
  · rw [← workless_agenda, workless_queueJob, workless_agenda]
  · rw [queueJob_image e hj hw]
    cases j with
    | boundary | supply => cases hj
    | _ => split <;> rfl

/-- The request that a control record of a kind hands to the Image Store, in every image state (R177, R179). -/
theorem judgeControl_image (e : Env) (w0 w1 w2 : Word) (n : Net) :
    judgeControl e 1 w0 w1 w2 n = requestAdoptTopology e n ∧ judgeControl e 2 w0 w1 w2 n = requestAdoptSensors e n ∧
    judgeControl e 3 w0 w1 w2 n = requestReopenImage n :=
  ⟨judgeControl_handed e (q := .adoptTopology) rfl _ _ _ (.inl rfl),
    judgeControl_handed e (q := .adoptSensors) rfl _ _ _ (.inl rfl),
    judgeControl_handed e (q := .reopenImage) rfl _ _ _ (.inl rfl)⟩

section

variable {s : State} {w0 w1 w2 : Word} (ready : s.ControlReady w0 w1 w2) (settled : s.net.Settled) (w : ControlWrite)
include ready settled

/-- An image request that is refused. -/
theorem exec_imageRequest_refused {c : Instr} {kind : BitVec 8} (hc : exec c s = .next (s.controlWrite w kind)) {a : Answer}
    (hk : judgeControl s.env kind.toNat w0 w1 w2 s.net = a) {why : ControlOutcome} {detail : Nat}
    (ha : a = refuse s.net why detail) :
    exec c s = .next (s.afterControl w kind why detail (judgeAttn s.net)) := by
  rw [hc, controlWrite_refused ready settled w kind why detail (hk.trans ha)]

omit settled in
/-- An image request that is accepted with blocks that settle at once. -/
theorem exec_imageRequest_accepted {c : Instr} {kind : BitVec 8} (hc : exec c s = .next (s.controlWrite w kind)) {a : Answer}
    (hk : judgeControl s.env kind.toNat w0 w1 w2 s.net = a) {n : Net} (ha : a = accept n) (hn : settle s.env n = judgeAttn n) :
    exec c s = .next (s.afterControl w kind .accepted 0 (judgeAttn n)) := by
  rw [hc, controlWrite_answer ready w kind (accept n) (hk.trans ha), ← hn]; rfl

end

/-- Settles O38: a refusal leaves the blocks, and an acceptance queues a job that gives no notice. -/
theorem adoptionRequestsQueueTheirJobs : Obligations.AdoptionRequestsQueueTheirJobs := by
  intro s w w0 w1 w2 ready settled working
  obtain ⟨topology, sensors, _⟩ := judgeControl_image s.env w0 w1 w2 s.net
  have refusedT := fun why => exec_imageRequest_refused ready settled w (c := .adoptTopology w) (kind := 1) rfl topology
    (why := why) (detail := 0)
  have refusedS := fun why => exec_imageRequest_refused ready settled w (c := .adoptSensors w) (kind := 2) rfl sensors
    (why := why) (detail := 0)
  refine ⟨fun ha => refusedT _ (if_pos ha), fun ha hm => refusedT _ ?_, fun ha hm => ?_,
    fun ha => refusedS _ (if_pos ha), fun ha hm => refusedS _ ?_, fun ha hm => ?_⟩
  · unfold requestAdoptTopology; rw [ha, if_neg (by decide), if_pos hm]
  · have taken : requestAdoptTopology s.env s.net = accept (queueJob s.env .adoptTopology s.net) := by
      unfold requestAdoptTopology; rw [ha, hm, if_neg (by decide), if_neg (not_not_intro rfl)]
    rw [exec_imageRequest_accepted ready w (c := .adoptTopology w) (kind := 1) rfl topology taken
      (settle_queueJob_image _ rfl working settled), queueJob_image _ rfl working]
    rfl
  · unfold requestAdoptSensors; rw [ha, if_neg (by decide), if_pos hm]
  · have taken : requestAdoptSensors s.env s.net = accept (queueJob s.env .adoptSensors s.net) := by
      unfold requestAdoptSensors; rw [ha, hm, if_neg (by decide), if_neg (not_not_intro rfl)]
    rw [exec_imageRequest_accepted ready w (c := .adoptSensors w) (kind := 2) rfl sensors taken
      (settle_queueJob_image _ rfl working settled), queueJob_image _ rfl working]
    rfl

/-! ### What stands in the way of a reopening (R22) -/

/-- A job of the incident waits or runs. -/
def Net.WorksFor (n : Net) (i : Nat) : Prop :=
  (∃ j ∈ n.jobs, j.incident = some i) ∨ ∃ r, n.walker = some r ∧ r.job.incident = some i

/-- The valve is no entry, or free of control and of strokes. -/
def Valve.Quiet (x : Valve) : Prop := x.tag ≠ .empty → x.control = .free ∧ (x.motion = .rest ∨ x.motion = .fault)

theorem worksFor_iff (n : Net) (i : Nat) :
    ((n.jobs ++ (n.walker.map Running.job).toList).any fun j => j.incident == some i) = true ↔ n.WorksFor i := by
  unfold Net.WorksFor
  cases n.walker <;> simp

theorem reopenJob_iff (n : Net) : reopenJob n = true ↔ ¬ (n.walker = none ∧ n.jobs = []) := by
  unfold reopenJob
  cases n.walker <;> simp

theorem reopenJob_of_worksFor {n : Net} {i : Nat} (h : n.WorksFor i) : reopenJob n = true := by
  refine (reopenJob_iff n).2 fun ⟨walker, jobs⟩ => ?_
  rcases h with ⟨j, hj, _⟩ | ⟨r, hr, _⟩
  · rw [jobs] at hj; cases hj
  · rw [walker] at hr; cases hr

theorem reopenJob_idle {n : Net} (h : n.walker = none ∧ n.jobs = []) : reopenJob n = false :=
  Bool.eq_false_iff.2 fun hr => (reopenJob_iff n).1 hr h

/-- The lowest incident number that meets `p`, or that none does. -/
theorem find_incidentIds {p : Nat → Bool} {i : Nat} (hi : i < 8) (h : p i = true) (hj : ∀ j, j < i → p j = false) :
    incidentIds.find? p = some i :=
  List.find?_range_eq_some.2 ⟨h, List.mem_range.2 hi, fun j hlt => by rw [hj j hlt]; rfl⟩

theorem find_incidentIds_none {p : Nat → Bool} (h : ∀ i, i < 8 → p i = false) : incidentIds.find? p = none :=
  List.find?_eq_none.2 fun i hi => by simp [h i (List.mem_range.1 hi)]

theorem jobIncident_at {n : Net} {i : Nat} (hi : i < 8) (h : n.WorksFor i) (hj : ∀ j, j < i → ¬ n.WorksFor j) :
    jobIncident n = some i :=
  find_incidentIds hi ((worksFor_iff n i).2 h) fun j hlt => Bool.eq_false_iff.2 fun hw => hj j hlt ((worksFor_iff n j).1 hw)

theorem jobIncident_none {n : Net} (h : ∀ i, i < 8 → ¬ n.WorksFor i) : jobIncident n = none :=
  find_incidentIds_none fun i hi => Bool.eq_false_iff.2 fun hw => h i hi ((worksFor_iff n i).1 hw)

theorem reopenIncident_at {n : Net} {i : Nat} (hi : i < 8) (h : (n.incident i).state ≠ .free)
    (hj : ∀ j, j < i → (n.incident j).state = .free) : reopenIncident n = some i :=
  find_incidentIds hi (decide_eq_true h) fun j hlt => decide_eq_false (not_not_intro (hj j hlt))

theorem reopenIncident_none {n : Net} (h : ∀ i, i < 8 → (n.incident i).state = .free) : reopenIncident n = none :=
  find_incidentIds_none fun i hi => decide_eq_false (not_not_intro (h i hi))

/-- The first id listed is the lowest with the property. -/
theorem Enumerates.head {p : Nat → Prop} {l : List Nat} (h : Enumerates l p) {k : Nat} (hk : p k) (hj : ∀ j, j < k → ¬ p j) :
    l.head? = some k := by
  obtain ⟨rises, names⟩ := h
  cases l with
  | nil => exact nomatch (names k).2 hk
  | cons a l =>
    rcases List.mem_cons.1 ((names k).2 hk) with rfl | hl
    · rfl
    · exact absurd ((names a).1 List.mem_cons_self) (hj a ((List.pairwise_cons.1 rises).1 k hl))

theorem Enumerates.eq_nil {p : Nat → Prop} {l : List Nat} (h : Enumerates l p) (hp : ∀ k, ¬ p k) : l = [] :=
  List.eq_nil_iff_forall_not_mem.2 fun k hk => hp k ((h.2 k).1 hk)

/-- The valves that stand in the way of a reopening, ascending (R22). -/
theorem unquiet_enumerates {n : Net} (h : n.Canonical) :
    Enumerates (idsWhere (fun _ x => x.tag != .empty && !(x.control = .free && (x.motion = .rest || x.motion = .fault))) n.valves)
      fun v => ¬ (n.valve v).Quiet := by
  obtain ⟨rises, names⟩ := idsWhere_enumerates (d := Valve.atReset)
    (p := fun _ x => x.tag != .empty && !(x.control = .free && (x.motion = .rest || x.motion = .fault))) h.valves fun _ => rfl
  refine ⟨rises, fun v => (names v).trans ?_⟩
  show _ ↔ ¬ (lookup Valve.atReset n.valves v).Quiet
  unfold Valve.Quiet
  simp [Decidable.imp_iff_not_or]

theorem reopenValve_at {n : Net} (h : n.Canonical) {v : Nat} (hv : ¬ (n.valve v).Quiet) (hu : ∀ u, u < v → (n.valve u).Quiet) :
    reopenValve n = some v :=
  (unquiet_enumerates h).head hv fun u hlt => not_not_intro (hu u hlt)

theorem reopenValve_none {n : Net} (h : n.Canonical) (hv : ∀ v, (n.valve v).Quiet) : reopenValve n = none :=
  congrArg List.head? ((unquiet_enumerates h).eq_nil fun v => not_not_intro (hv v))

/-! ### The request judged (R22, R198) -/

theorem busyDetail_eq {condition id : Nat} (h : id < 2 ^ 16) : busyDetail condition id = condition * 2 ^ 24 + id := by
  unfold busyDetail; rw [Nat.mod_eq_of_lt h]

theorem requestReopenImage_job {n : Net} (h : reopenJob n = true) :
    requestReopenImage n = refuse n .busyImage (busyDetail 1 (idField (jobIncident n))) := by
  unfold requestReopenImage; rw [if_pos h]

section

variable {n : Net} (idle : n.walker = none ∧ n.jobs = [])
include idle

theorem requestReopenImage_incident {i : Nat} (h : reopenIncident n = some i) :
    requestReopenImage n = refuse n .busyImage (busyDetail 2 i) := by
  unfold requestReopenImage; rw [reopenJob_idle idle, h]; rfl

theorem requestReopenImage_valve (free : reopenIncident n = none) {v : Nat} (h : reopenValve n = some v) :
    requestReopenImage n = refuse n .busyImage (busyDetail 3 v) := by
  unfold requestReopenImage; rw [reopenJob_idle idle, free, h]; rfl

theorem requestReopenImage_taken (free : reopenIncident n = none) (quiet : reopenValve n = none) :
    requestReopenImage n = accept (reopen n) := by
  unfold requestReopenImage; rw [reopenJob_idle idle, free, quiet]; rfl

end

/-! ### What a reopening takes back (R20, R22, R43, R63) -/

/-- What the tables of a net beside those of the image, the GLOBAL entry and the three flags are after a reopening: as before. -/
theorem reopen_rest (n : Net) : reopen n = { n with
    nodes := (reopen n).nodes, pipes := (reopen n).pipes, valves := (reopen n).valves, sensors := (reopen n).sensors
    cells := (reopen n).cells, globals := { n.globals with tag := n.globals.tag.unadopt }
    topologyAdopted := false, sensorsAdopted := false, live := false } := by
  unfold reopen; split <;> rfl

theorem reopen_not_live {n : Net} (h : n.live = false) : reopen n = unadopt n := by
  unfold reopen; rw [h, if_neg (by decide)]

theorem reopen_live {n : Net} (h : n.live = true) : reopen n = closeCells (closeSensors (unadopt n)) := by
  unfold reopen; rw [if_pos h]

/-- A reopening takes back nodes, pipes and valves alike, LIVE or not. -/
theorem reopen_topology (n : Net) : (reopen n).nodes = (unadopt n).nodes ∧ (reopen n).pipes = (unadopt n).pipes ∧
    (reopen n).valves = (unadopt n).valves := by
  unfold reopen; split <;> exact ⟨rfl, rfl, rfl⟩

section

variable {n : Net} (h : n.Canonical)
include h

theorem Net.Canonical.unadopt : (unadopt n).Canonical := (Keeps.refl n).unadopt.canonical h

theorem node_unadopt (k : Nat) : (unadopt n).node k = { n.node k with tag := (n.node k).tag.unadopt, edges := [] } :=
  lookup_mapTable (f := fun _ (x : Node) => { x with tag := x.tag.unadopt, edges := [] }) h.nodes (fun _ => rfl) k
theorem pipe_unadopt (k : Nat) : (unadopt n).pipe k = { n.pipe k with tag := (n.pipe k).tag.unadopt } :=
  lookup_mapTable (f := fun _ (x : Pipe) => { x with tag := x.tag.unadopt }) h.pipes (fun _ => rfl) k
theorem valve_unadopt (k : Nat) : (unadopt n).valve k = { n.valve k with tag := (n.valve k).tag.unadopt } :=
  lookup_mapTable (f := fun _ (x : Valve) => { x with tag := x.tag.unadopt }) h.valves (fun _ => rfl) k
theorem sensor_unadopt (k : Nat) : (unadopt n).sensor k = { n.sensor k with tag := (n.sensor k).tag.unadopt } :=
  lookup_mapTable (f := fun _ (x : Sensor) => { x with tag := x.tag.unadopt }) h.sensors (fun _ => rfl) k
theorem cell_unadopt (k : Nat) : (unadopt n).cell k = { n.cell k with tag := (n.cell k).tag.unadopt } :=
  lookup_mapTable (f := fun _ (x : Cell) => { x with tag := x.tag.unadopt }) h.cells (fun _ => rfl) k

theorem sensor_mapSensors {f : Nat → Sensor → Sensor} (hf : ∀ k, f k Sensor.atReset = Sensor.atReset) (k : Nat) :
    (mapSensors f n).sensor k = f k (n.sensor k) := lookup_mapTable h.sensors hf k
theorem cell_mapCells {f : Nat → Cell → Cell} (hf : ∀ k, f k Cell.atReset = Cell.atReset) (k : Nat) :
    (mapCells f n).cell k = f k (n.cell k) := lookup_mapTable h.cells hf k

theorem node_reopen (k : Nat) : (reopen n).node k = { n.node k with tag := (n.node k).tag.unadopt, edges := [] } := by
  rw [← node_unadopt h, Net.node, (reopen_topology n).1]; rfl
theorem pipe_reopen (k : Nat) : (reopen n).pipe k = { n.pipe k with tag := (n.pipe k).tag.unadopt } := by
  rw [← pipe_unadopt h, Net.pipe, (reopen_topology n).2.1]; rfl
theorem valve_reopen (k : Nat) : (reopen n).valve k = { n.valve k with tag := (n.valve k).tag.unadopt } := by
  rw [← valve_unadopt h, Net.valve, (reopen_topology n).2.2]; rfl

/-- A sensor of an image that was LIVE takes the values of the "image closed" notice (R43). -/
theorem sensor_reopen_live (hl : n.live = true) (k : Nat) :
    (reopen n).sensor k = Sensor.cleared { n.sensor k with tag := (n.sensor k).tag.unadopt } := by
  rw [reopen_live hl, ← sensor_unadopt h]
  exact sensor_mapSensors (f := fun _ x => x.cleared) h.unadopt (fun _ => rfl) k

/-- A cell of an image that was LIVE takes the values of the "image closed" notice (R63). -/
theorem cell_reopen_live (hl : n.live = true) (k : Nat) :
    (reopen n).cell k = Cell.cleared { n.cell k with tag := (n.cell k).tag.unadopt } := by
  rw [reopen_live hl, ← cell_unadopt h]
  exact cell_mapCells (f := fun _ x => x.cleared) ((Keeps.refl _).mapSensors _ |>.canonical h.unadopt) (fun _ => rfl) k

end

/-- A reopening gives no notice and leaves the incidents. -/
theorem settle_reopen {n : Net} (e : Env) (h : n.Settled) : settle e (reopen n) = judgeAttn (reopen n) :=
  settle_as e h (by rw [reopen_rest]) (by rw [reopen_rest])

/-- Settles O39: the refusals by the first thing that stands in the way, the reopening entry by entry. -/
theorem reopenImageRequest : Obligations.ReopenImageRequest := by
  refine ⟨fun s w w0 w1 w2 ready settled => ?_, fun n canonical => ?_⟩
  · obtain ⟨_, _, judged⟩ := judgeControl_image s.env w0 w1 w2 s.net
    have refused := fun detail => exec_imageRequest_refused ready settled w (c := .reopenImage w) (kind := 3) rfl judged
      (why := .busyImage) (detail := detail)
    refine ⟨fun busy none => refused _ ?_, fun i hi works first => refused _ ?_, fun i idle hi busy first => refused _ ?_,
      fun v canonical idle free hv busy first => refused _ ?_, fun canonical idle free quiet => ?_⟩
    · rw [requestReopenImage_job ((reopenJob_iff _).2 busy), jobIncident_none none]; rfl
    · rw [requestReopenImage_job (reopenJob_of_worksFor works), jobIncident_at hi works first,
        show idField (some i) = i from rfl, busyDetail_eq (by omega), Nat.one_mul]
    · rw [requestReopenImage_incident idle (reopenIncident_at hi busy first), busyDetail_eq (by omega)]
    · rw [requestReopenImage_valve idle (reopenIncident_none free) (reopenValve_at canonical.net busy first),
        busyDetail_eq (by omega)]
    · exact exec_imageRequest_accepted ready w (c := .reopenImage w) (kind := 3) rfl judged
        (requestReopenImage_taken idle (reopenIncident_none free) (reopenValve_none canonical.net quiet)) (settle_reopen _ settled)
  · refine ⟨reopen_rest n, node_reopen canonical, pipe_reopen canonical, valve_reopen canonical, fun hl => ?_, fun hl => ?_⟩
    · rw [reopen_not_live hl]
      exact ⟨sensor_unadopt canonical, cell_unadopt canonical⟩
    · exact ⟨sensor_reopen_live canonical hl, cell_reopen_live canonical hl⟩

end Sys2Proof.Machine
end

section
/-! SUPPORT. Where the checks of the three validations fail first, over lists that name the entries (R17 to R20). -/

namespace Sys2Proof.Machine

/-! ### The entries that the checks go through -/

section

variable {α : Type} [DecidableEq α] {d : α} {p : Nat → α → Bool} {t : Table α} {P : Nat → Prop} {l : List Nat}

/-- The ids found by a test are the list that names the ids with the property tested. -/
theorem Enumerates.idsWhere_eq (hl : Enumerates l P) (h : tableWf d t = true) (hp : ∀ k, p k d = false)
    (hP : ∀ k, p k (lookup d t k) = true ↔ P k) : idsWhere p t = l := by
  obtain ⟨rises, names⟩ := idsWhere_enumerates h hp
  exact Enumerates.unique ⟨rises, fun k => (names k).trans (hP k)⟩ hl

/-- The entries found by a test, read back by the list that names their ids. -/
theorem Enumerates.entries_eq (hl : Enumerates l P) (h : tableWf d t = true) (hp : ∀ k, p k d = false)
    (hP : ∀ k, p k (lookup d t k) = true ↔ P k) :
    (t.filter fun kv => p kv.1 kv.2) = l.map fun k => (k, lookup d t k) := by
  rw [filter_entries h, hl.idsWhere_eq h hp hP]

omit [DecidableEq α] in
/-- A further test of the ids filters the ids found. -/
theorem idsWhere_and (q : Nat → Bool) : idsWhere (fun k x => p k x && q k) t = (idsWhere p t).filter q := by
  unfold idsWhere
  rw [List.filter_map, List.filter_filter]
  exact congrArg _ (List.filter_congr fun kv _ => Bool.and_comm ..)

end

/-- A search that reports what it finds. -/
theorem findSome?_ite {α β : Type} (p : α → Bool) (g : α → β) (l : List α) :
    (l.findSome? fun a => if p a then some (g a) else none) = (l.find? p).map g := by
  rw [List.find?_eq_findSome?_guard, List.map_findSome?]
  refine congrArg (List.findSome? · l) (funext fun a => ?_)
  rw [Function.comp_apply, Option.guard_eq_ite]
  split <;> rfl

/-! ### Topology validation (R17, R18) -/

section

variable {n : Net} (h : n.Canonical)
include h

theorem stagedPipes_eq {pipes : List Nat} (hl : Enumerates pipes fun k => (n.pipe k).tag = .staged) :
    stagedPipes n = pipes.map fun k => (k, n.pipe k) :=
  hl.entries_eq (p := fun _ (x : Pipe) => decide (x.tag = .staged)) h.pipes (fun _ => rfl) fun _ => decide_eq_true_iff

theorem stagedValves_eq {valves : List Nat} (hl : Enumerates valves fun k => (n.valve k).tag = .staged) :
    stagedValves n = valves.map fun k => (k, n.valve k) :=
  hl.entries_eq (p := fun _ (x : Valve) => decide (x.tag = .staged)) h.valves (fun _ => rfl) fun _ => decide_eq_true_iff

variable {pipes valves : List Nat} (hp : Enumerates pipes fun k => (n.pipe k).tag = .staged)
  (hv : Enumerates valves fun k => (n.valve k).tag = .staged)
include hp hv

/-- A check of ends goes through the pipes and then the valves, each ascending. -/
theorem overEdges_eq (check : AdoptionTable → Nat → Nat → Nat → Option Failure) : overEdges n check =
    (pipes.findSome? fun k => check .pipe k (n.pipe k).endA (n.pipe k).endB).or
      (valves.findSome? fun k => check .valve k (n.valve k).endA (n.valve k).endB) := by
  unfold overEdges
  rw [stagedPipes_eq h hp, stagedValves_eq h hv, List.findSome?_map, List.findSome?_map]
  rfl

/-- An adjacency list holds the pipes and then the valves of its node, each ascending. -/
theorem adjacency_eq (k : Nat) : adjacency n k =
    (pipes.filterMap fun p => edgeAt k .pipe p (n.pipe p).endA (n.pipe p).endB) ++
      valves.filterMap fun v => edgeAt k .valve v (n.valve v).endA (n.valve v).endB := by
  unfold adjacency
  rw [stagedPipes_eq h hp, stagedValves_eq h hv, List.filterMap_map, List.filterMap_map]
  rfl

omit h hp hv in
theorem missingEnd_eq (n : Net) (table : AdoptionTable) (k a b : Nat) : missingEnd n table k a b =
    if (n.node a).tag ≠ .staged then some ⟨.endMissing, table, some k, some a⟩
    else if (n.node b).tag ≠ .staged then some ⟨.endMissing, table, some k, some b⟩ else none := by
  simp [missingEnd, stagedNode]

omit hp hv in
theorem degreeFailure_eq {nodes : List Nat} (hl : Enumerates nodes fun k => (n.node k).tag = .staged) : degreeFailure n =
    (nodes.find? fun k => decide (8 < (adjacency n k).length)).map fun k => ⟨.degree, .node, some k, none⟩ := by
  unfold degreeFailure
  rw [idsWhere_and (p := fun _ (x : Node) => decide (x.tag = .staged)), List.head?_filter,
    hl.idsWhere_eq h.nodes (fun _ => rfl) fun _ => decide_eq_true_iff]
  rfl

omit hp hv in
theorem sourceFailure_eq {sources : List Nat}
    (hl : Enumerates sources fun k => (n.node k).tag = .staged ∧ (n.node k).kind = .source) : sourceFailure n =
    if sources = [] then some ⟨.noSource, .none, none, none⟩
    else (sources[32]?).map fun k => ⟨.sourceCount, .node, some k, none⟩ := by
  unfold sourceFailure; dsimp only
  rw [hl.idsWhere_eq h.nodes (fun _ => rfl) fun _ => by rw [Bool.and_eq_true, decide_eq_true_iff, decide_eq_true_iff]; rfl]
  simp only [List.isEmpty_iff]
  rfl

omit hp hv in
theorem protectedFailure_eq {guarded : List Nat}
    (hl : Enumerates guarded fun k => (n.node k).tag = .staged ∧ (n.node k).guarded = true) : protectedFailure n =
    (guarded[128]?).map fun k => ⟨.protectedCount, .node, some k, none⟩ := by
  unfold protectedFailure
  rw [hl.idsWhere_eq h.nodes (fun _ => rfl) fun _ => by rw [Bool.and_eq_true, decide_eq_true_iff]; rfl]
  rfl

end

/-! ### Sensor validation and the cross-check (R19, R20) -/

section

variable {n : Net} (h : n.Canonical)
include h

/-- Sensor validation goes through the meters of the STAGED cells and then through their centres. -/
theorem sensorsFailure_eq {cells : List Nat} (hl : Enumerates cells fun k => (n.cell k).tag = .staged) : sensorsFailure n =
    (cells.findSome? fun k => (n.cell k).meters.findSome? (meterFailure n k)).or
      ((cells.find? fun k => decide (4095 < (n.cell k).centre)).map fun k => ⟨.centreRange, .cell, some k, none⟩) := by
  have staged : stagedCells n = cells.map fun k => (k, n.cell k) :=
    hl.entries_eq (p := fun _ (x : Cell) => decide (x.tag = .staged)) h.cells (fun _ => rfl) fun _ => decide_eq_true_iff
  unfold sensorsFailure
  rw [staged, List.findSome?_map, List.findSome?_map, ← findSome?_ite]
  simp only [decide_eq_true_eq]
  rfl

/-- The tag of the entry that a sensor's site names, by its kind (R20). -/
def siteTag (n : Net) (s : Sensor) : Tag :=
  match s.kind with
  | .pressure => (n.node s.site).tag
  | .flow => (n.pipe s.site).tag

omit h in
theorem siteAdopted_eq (n : Net) (s : Sensor) : siteAdopted n s = decide (siteTag n s = .adopted) := by
  unfold siteAdopted siteTag; cases s.kind <;> rfl

omit h in
/-- A check that fails where something is not ADOPTED. -/
theorem findSome?_unless {α : Type} (tag : α → Tag) (g : α → Failure) (l : List α) :
    (l.findSome? fun a => if tag a = .adopted then none else some (g a)) = (l.find? fun a => decide (tag a ≠ .adopted)).map g := by
  rw [← findSome?_ite]
  refine congrArg (List.findSome? · l) (funext fun a => ?_)
  by_cases ha : tag a = .adopted <;> simp [ha]

/-- The cross-check goes through the sites of the ADOPTED sensors, the centres of the ADOPTED cells and the cells of the sensors. -/
theorem crossFailure_eq {sensors cells : List Nat} (hs : Enumerates sensors fun k => (n.sensor k).tag = .adopted)
    (hc : Enumerates cells fun k => (n.cell k).tag = .adopted) : crossFailure n =
    ((sensors.find? fun k => decide (siteTag n (n.sensor k) ≠ .adopted)).map fun k =>
      ⟨.siteMissing, .sensor, some k, some (n.sensor k).site⟩).or
    (((cells.find? fun k => decide ((n.node (n.cell k).centre).tag ≠ .adopted)).map fun k =>
      ⟨.centreMissing, .cell, some k, some (n.cell k).centre⟩).or
    ((sensors.find? fun k => decide ((n.cell (n.sensor k).cell).tag ≠ .adopted)).map fun k =>
      ⟨.cellMissing, .sensor, some k, some (n.sensor k).cell⟩)) := by
  have adoptedS : adoptedSensors n = sensors.map fun k => (k, n.sensor k) :=
    hs.entries_eq (p := fun _ (x : Sensor) => decide (x.tag = .adopted)) h.sensors (fun _ => rfl) fun _ => decide_eq_true_iff
  have adoptedC : (n.cells.filter fun kv => decide (kv.2.tag = .adopted)) = cells.map fun k => (k, n.cell k) :=
    hc.entries_eq (p := fun _ (x : Cell) => decide (x.tag = .adopted)) h.cells (fun _ => rfl) fun _ => decide_eq_true_iff
  unfold crossFailure
  rw [adoptedS, adoptedC, List.findSome?_map, List.findSome?_map, List.findSome?_map]
  simp only [siteAdopted_eq, decide_eq_true_eq, Function.comp_def, findSome?_unless]

end

end Sys2Proof.Machine
end

section
/-! SUPPORT. What the completion of a validation leaves of the image, and how the walker goes on (R16 to R21, R105). -/

namespace Sys2Proof.Machine

/-! ### What the end of a validation leaves (R16, R84, R105) -/

/-- The fields of the network image, without markers, jobs and notices; the others are blanked. -/
def Net.image (n : Net) : Net where
  nodes := n.nodes
  pipes := n.pipes
  valves := n.valves
  sensors := n.sensors
  cells := n.cells
  globals := n.globals
  topologyAdopted := n.topologyAdopted
  sensorsAdopted := n.sensorsAdopted
  live := n.live
  topologyResult := n.topologyResult
  sensorsResult := n.sensorsResult
  crossResult := n.crossResult
  dropped := n.dropped

/-- IMAGE is raised with the job and the outcome (R181). -/
def Net.Raised (n t : Net) (now : Time) (job : Nat) (r : AdoptionResult) : Prop :=
  t.cause 0 = { n.cause 0 with
    flag := true, count := min ((n.cause 0).count + 1) 65535, time := now, subject := BitVec.ofNat 32 job
    detail := BitVec.ofNat 32 r.outcome.code }

/-- The jobs that wait when a job ends, once those of FAILED incidents at the head are dropped (R84, R105). -/
def Net.waiting (n : Net) (added : List Job) : List Job :=
  (n.jobs ++ added ++ (List.range 8).filterMap fun i =>
    if (n.incident i).state = .checking ∧ (n.incident i).marker = .none then some (Job.supply i (n.incident i).generation)
    else none).dropWhile fun j => j.incident.any fun i => decide ((n.incident i).state = .failed)

/-- The walker goes on with the oldest waiting job (R84, R105, R123). -/
structure Net.GoesOn (n t : Net) (added : List Job) (topologyMarker sensorsMarker : Marker) : Prop where
  jobs : t.jobs = (n.waiting added).drop 1
  walker : t.walker = (n.waiting added).head?.map fun j => ⟨j, false⟩
  topology : t.topologyMarker = if (n.waiting added).head? = some .adoptTopology then .running else topologyMarker
  sensors : t.sensorsMarker = if (n.waiting added).head? = some .adoptSensors then .running else sensorsMarker
  completed : t.jobsCompleted = min (n.jobsCompleted + 1) 65535

/-- A validation judged, before its job ends: what the end of the job reads is as before but for the jobs added and the markers. -/
structure Net.Judges (n q : Net) (added : List Job) (topologyMarker sensorsMarker : Marker) : Prop where
  canonical : q.Canonical
  agenda : q.agenda = n.agenda
  incidents : q.incidents = n.incidents
  causes : q.causes = n.causes
  jobs : q.jobs = n.jobs ++ added
  walker : q.walker = n.walker
  completed : q.jobsCompleted = n.jobsCompleted
  topology : q.topologyMarker = topologyMarker
  sensors : q.sensorsMarker = sensorsMarker

/-- The end of a validation: IMAGE is raised, the job is counted and the next one started. -/
def endValidation (e : Env) (job : Nat) (r : AdoptionResult) (q : Net) : Net :=
  finishJob e (countCompleted (raise e .image job r.outcome.code q))

theorem Follows.finishJob {m n : Net} (h : Follows m n) (e : Env) : Follows m (finishJob e n) := by
  have queued : Follows m (queueChecks e n) := by
    refine Follows.foldl (fun i h => ?_) h _
    unfold queueCheck; dsimp only; split
    · exact h.queueJob ..
    · exact h
  unfold Machine.finishJob
  generalize queueChecks e n = q at queued ⊢
  exact (queued.free (n' := { q with walker := none }) rfl rfl rfl rfl rfl rfl rfl rfl).startJobs e

/-- A job's drop at its start, as a test of the job's incident (R105). -/
theorem dropsAtStart_eq (n : Net) : dropsAtStart n = fun j => j.incident.any fun i => decide ((n.incident i).state = .failed) := by
  funext j; unfold dropsAtStart; cases j.incident <;> rfl

theorem image_workless (n : Net) : n.workless.image = n.image := rfl

theorem endValidation_image (e : Env) (job : Nat) (r : AdoptionResult) (q : Net) : (endValidation e job r q).image = q.image := by
  unfold endValidation
  rw [← image_workless, workless_finishJob, image_workless]
  rfl

/-- The end of a job leaves the count of completed jobs, which stands already. -/
theorem finishJob_completed (e : Env) (n : Net) : (finishJob e n).jobsCompleted = n.jobsCompleted := by
  have workless : ∀ n : Net, n.workless.jobsCompleted = n.jobsCompleted := fun _ => rfl
  rw [← workless, workless_finishJob, workless]

section

variable {n q : Net} {added : List Job} {tm sm : Marker} (v : n.Judges q added tm sm)
include v

theorem Net.Judges.incident (i : Nat) : q.incident i = n.incident i := by unfold Net.incident; rw [v.incidents]

/-- The tables stay canonical when IMAGE is raised and the job is counted. -/
theorem Net.Judges.counted_canonical (e : Env) (job code : Nat) : (countCompleted (raise e .image job code q)).Canonical :=
  ((Keeps.refl q).raise e .image job code).countCompleted.canonical v.canonical

theorem Net.Judges.raised (e : Env) (job : Nat) (r : AdoptionResult) : n.Raised (endValidation e job r q) e.time job r := by
  have kept : (endValidation e job r q).cause 0 = (raise e .image job r.outcome.code q).cause 0 :=
    (((Follows.refl _).finishJob e).holds (v.counted_canonical e job r.outcome.code)).2.cause 0 |>.2.2 (by decide)
  have cause : q.cause 0 = n.cause 0 := by unfold Net.cause; rw [v.causes]
  refine kept.trans ((v.canonical.cause_setCause_same 0 _).trans ?_)
  rw [← cause]; rfl

theorem Net.Judges.goesOn (hw : n.walker.isSome = true) (e : Env) (job : Nat) (r : AdoptionResult) :
    n.GoesOn (endValidation e job r q) added tm sm := by
  have wait : (q.jobs ++ incidentIds.filterMap fun i =>
      if (q.incident i).state = .checking ∧ (q.incident i).marker = .none then some (Job.supply i (q.incident i).generation)
      else none).dropWhile (dropsAtStart q) = n.waiting added := by
    rw [dropsAtStart_eq, v.jobs]; simp only [v.incident]; rfl
  obtain ⟨jobs, walker, topology, sensors⟩ := finishJob_goesOn e (v.counted_canonical e job r.outcome.code)
    (show q.walker.isSome = true by rw [v.walker, hw])
  unfold endValidation
  refine ⟨jobs.trans (congrArg _ wait), walker.trans (by rw [← wait]; rfl), topology.trans (by rw [← wait, ← v.topology]; rfl),
    sensors.trans (by rw [← wait, ← v.sensors]; rfl), (finishJob_completed ..).trans ?_⟩
  rw [← v.completed]; rfl

/-- The end of a validation gives no notice and calls for no escalation. -/
theorem Net.Judges.settle_end (hs : n.Settled) (e : Env) (job : Nat) (r : AdoptionResult) :
    settle e (endValidation e job r q) = judgeAttn (endValidation e job r q) :=
  settle_finishJob e hs (v.counted_canonical e job r.outcome.code) v.agenda v.incidents

end

/-! ### What becomes of the halves (R16, R18 to R22) -/

/-- The entries of the topology half with their tags changed by `f`, apart from the adjacency lists. -/
def Net.TopologyTags (n t : Net) (f : Tag → Tag) : Prop :=
  t.globals = { n.globals with tag := f n.globals.tag } ∧
  (∀ k, t.node k = { n.node k with tag := f (n.node k).tag, edges := (t.node k).edges }) ∧
  (∀ k, t.pipe k = { n.pipe k with tag := f (n.pipe k).tag }) ∧
  ∀ k, t.valve k = { n.valve k with tag := f (n.valve k).tag }

/-- The entries of the sensor half with their tags changed by `f`. -/
def Net.SensorTags (n t : Net) (f : Tag → Tag) : Prop :=
  (∀ k, t.sensor k = { n.sensor k with tag := f (n.sensor k).tag }) ∧
  ∀ k, t.cell k = { n.cell k with tag := f (n.cell k).tag }

/-- The topology half stays. -/
def Net.TopologyStays (n t : Net) : Prop :=
  t.topologyAdopted = n.topologyAdopted ∧ n.TopologyTags t (fun tag => tag) ∧ ∀ k, (t.node k).edges = (n.node k).edges

/-- The sensor half stays. -/
def Net.SensorsStay (n t : Net) : Prop := t.sensorsAdopted = n.sensorsAdopted ∧ n.SensorTags t fun tag => tag

theorem Net.TopologyStays.refl (n : Net) : n.TopologyStays n :=
  ⟨rfl, ⟨rfl, fun _ => rfl, fun _ => rfl, fun _ => rfl⟩, fun _ => rfl⟩

theorem Net.SensorsStay.refl (n : Net) : n.SensorsStay n := ⟨rfl, fun _ => rfl, fun _ => rfl⟩

/-- What is said of the halves is said of the image alone. -/
theorem Net.TopologyTags.of_image {n q t : Net} {f : Tag → Tag} (ht : t.image = q.image) (h : n.TopologyTags q f) :
    n.TopologyTags t f :=
  show n.TopologyTags t.image f from ht ▸ h
theorem Net.SensorTags.of_image {n q t : Net} {f : Tag → Tag} (ht : t.image = q.image) (h : n.SensorTags q f) : n.SensorTags t f :=
  show n.SensorTags t.image f from ht ▸ h
theorem Net.TopologyStays.of_image {n q t : Net} (ht : t.image = q.image) (h : n.TopologyStays q) : n.TopologyStays t :=
  show n.TopologyStays t.image from ht ▸ h
theorem Net.SensorsStay.of_image {n q t : Net} (ht : t.image = q.image) (h : n.SensorsStay q) : n.SensorsStay t :=
  show n.SensorsStay t.image from ht ▸ h

/-- An entry is adopted with its adjacency list built when it is STAGED, and stays else. -/
theorem adopt_node (x : Node) (edges : List Edge) : (if x.tag = .staged then { x with tag := .adopted, edges := edges } else x) =
    { x with tag := x.tag.adopt, edges := if x.tag = .staged then edges else x.edges } := by
  cases x with
  | mk tag => cases tag <;> rfl

section

variable {n : Net} (h : n.Canonical)
include h

/-- The nodes of an adopted half, with the adjacency lists that the STAGED pipes and valves give (R18). -/
theorem node_adoptTopologyHalf (k : Nat) : (adoptTopologyHalf n).node k = { n.node k with
    tag := (n.node k).tag.adopt, edges := if (n.node k).tag = .staged then adjacency n k else (n.node k).edges } :=
  (lookup_mapTable (f := fun k (x : Node) => if x.tag = .staged then { x with tag := .adopted, edges := adjacency n k } else x)
    h.nodes (fun _ => rfl) k).trans (adopt_node ..)

theorem topologyTags_adopt : n.TopologyTags (adoptTopologyHalf n) Tag.adopt :=
  ⟨rfl, fun k => by rw [node_adoptTopologyHalf h],
    lookup_mapTable (f := fun _ (x : Pipe) => { x with tag := x.tag.adopt }) h.pipes fun _ => rfl,
    lookup_mapTable (f := fun _ (x : Valve) => { x with tag := x.tag.adopt }) h.valves fun _ => rfl⟩

theorem sensorTags_adopt : n.SensorTags (adoptSensorsHalf n) Tag.adopt :=
  ⟨lookup_mapTable (f := fun _ (x : Sensor) => { x with tag := x.tag.adopt }) h.sensors fun _ => rfl,
    lookup_mapTable (f := fun _ (x : Cell) => { x with tag := x.tag.adopt }) h.cells fun _ => rfl⟩

theorem topologyTags_unadopt : n.TopologyTags (unadopt n) Tag.unadopt :=
  ⟨rfl, fun k => by rw [node_unadopt h], pipe_unadopt h, valve_unadopt h⟩

theorem sensorTags_unadopt : n.SensorTags (unadopt n) Tag.unadopt := ⟨sensor_unadopt h, cell_unadopt h⟩

/-- At the "image live" notice an ADOPTED sensor begins LEARNING (R43). -/
theorem sensor_goLive (e : Env) (k : Nat) : (goLive e n).sensor k =
    if (n.sensor k).tag = .adopted then (n.sensor k).cleared.restarted.refreshed e.time else n.sensor k :=
  sensor_mapSensors (f := fun _ x => if x.tag = .adopted then x.cleared.restarted.refreshed e.time else x) h (fun _ => rfl) k

/-- At the "image live" notice an ADOPTED cell becomes QUIET, its absorbed count kept (R63). -/
theorem cell_goLive (e : Env) (k : Nat) : (goLive e n).cell k =
    if (n.cell k).tag = .adopted then { (n.cell k).cleared with state := .quiet, absorbed := (n.cell k).absorbed } else n.cell k :=
  cell_mapCells (f := fun _ c => if c.tag = .adopted then { c.cleared with state := .quiet, absorbed := c.absorbed } else c) h
    (fun _ => rfl) k

end

/-! ### The three judgements -/

/-- Topology validation judged: the result written, and on a pass the half adopted (R16 to R18). -/
def judgeTopology (e : Env) (n : Net) : Net :=
  let q := setMarker .adoptTopology .none { n with topologyResult := resultOf (topologyFailure n) e.time }
  if (topologyFailure n).isNone then queueCross e (adoptTopologyHalf q) else q

/-- Sensor validation judged (R16, R19). -/
def judgeSensors (e : Env) (n : Net) : Net :=
  let q := setMarker .adoptSensors .none { n with sensorsResult := resultOf (sensorsFailure n) e.time }
  if (sensorsFailure n).isNone then queueCross e (adoptSensorsHalf q) else q

/-- The cross-check judged (R16, R20, R21). -/
def judgeCross (e : Env) (n : Net) : Net :=
  let q := { n with crossResult := resultOf (crossFailure n) e.time }
  if (crossFailure n).isNone then goLive e q else unadopt q

theorem completeTopology_eq (e : Env) (n : Net) :
    completeTopology e n = endValidation e 0 (judgeTopology e n).topologyResult (judgeTopology e n) := rfl
theorem completeSensors_eq (e : Env) (n : Net) :
    completeSensors e n = endValidation e 1 (judgeSensors e n).sensorsResult (judgeSensors e n) := rfl
theorem completeCross_eq (e : Env) (n : Net) :
    completeCross e n = endValidation e 2 (judgeCross e n).crossResult (judgeCross e n) := rfl

/-- On a busy walker the cross-check waits behind the other jobs once both halves are adopted (R18, R19). -/
theorem queueCross_busy (e : Env) {n : Net} (hw : n.walker.isSome = true) {both : Bool}
    (hb : (n.topologyAdopted && n.sensorsAdopted) = both) :
    queueCross e n = { n with jobs := n.jobs ++ if both then [.crossCheck] else [] } := by
  unfold queueCross
  rw [hb]
  split
  · exact queueJob_busy e .crossCheck hw
  · rw [List.append_nil]

section

variable {e : Env} {n : Net}

theorem judgeTopology_passed (hw : n.walker.isSome = true) (hf : topologyFailure n = none) : judgeTopology e n =
    { adoptTopologyHalf { n with topologyMarker := .none, topologyResult := resultOf (topologyFailure n) e.time } with
      jobs := n.jobs ++ if n.sensorsAdopted then [.crossCheck] else [] } := by
  unfold judgeTopology
  refine (if_pos (by rw [hf]; rfl)).trans (queueCross_busy e ?_ (both := n.sensorsAdopted) rfl)
  exact hw

theorem judgeTopology_failed (hf : topologyFailure n ≠ none) : judgeTopology e n =
    { n with topologyMarker := .none, topologyResult := resultOf (topologyFailure n) e.time } := by
  unfold judgeTopology
  exact if_neg (by simpa using hf)

theorem judgeSensors_passed (hw : n.walker.isSome = true) (hf : sensorsFailure n = none) : judgeSensors e n =
    { adoptSensorsHalf { n with sensorsMarker := .none, sensorsResult := resultOf (sensorsFailure n) e.time } with
      jobs := n.jobs ++ if n.topologyAdopted then [.crossCheck] else [] } := by
  unfold judgeSensors
  refine (if_pos (by rw [hf]; rfl)).trans (queueCross_busy e ?_ (both := n.topologyAdopted) (Bool.and_true _))
  exact hw

theorem judgeSensors_failed (hf : sensorsFailure n ≠ none) : judgeSensors e n =
    { n with sensorsMarker := .none, sensorsResult := resultOf (sensorsFailure n) e.time } := by
  unfold judgeSensors
  exact if_neg (by simpa using hf)

theorem judgeCross_passed (hf : crossFailure n = none) :
    judgeCross e n = goLive e { n with crossResult := resultOf (crossFailure n) e.time } := by
  unfold judgeCross
  exact if_pos (by rw [hf]; rfl)

theorem judgeCross_failed (hf : crossFailure n ≠ none) :
    judgeCross e n = unadopt { n with crossResult := resultOf (crossFailure n) e.time } := by
  unfold judgeCross
  exact if_neg (by simpa using hf)

variable (h : n.Canonical)
include h

/-- Topology validation judged leaves what the end of its job reads. -/
theorem judgeTopology_judges (hw : n.walker.isSome = true) : n.Judges (judgeTopology e n)
    (if topologyFailure n = none ∧ n.sensorsAdopted = true then [.crossCheck] else []) .none n.sensorsMarker := by
  by_cases hf : topologyFailure n = none
  · rw [judgeTopology_passed hw hf]
    have adopted := (Keeps.refl _).adoptTopologyHalf.canonical
      (n := { n with topologyMarker := .none, topologyResult := resultOf (topologyFailure n) e.time }) { h with }
    exact ⟨{ adopted with }, rfl, rfl, rfl, by simp [hf], rfl, rfl, rfl, rfl⟩
  · rw [judgeTopology_failed hf, if_neg fun hc => hf hc.1]
    exact ⟨{ h with }, rfl, rfl, rfl, (List.append_nil _).symm, rfl, rfl, rfl, rfl⟩

/-- Sensor validation judged leaves what the end of its job reads. -/
theorem judgeSensors_judges (hw : n.walker.isSome = true) : n.Judges (judgeSensors e n)
    (if sensorsFailure n = none ∧ n.topologyAdopted = true then [.crossCheck] else []) n.topologyMarker .none := by
  by_cases hf : sensorsFailure n = none
  · rw [judgeSensors_passed hw hf]
    have adopted := (Keeps.refl _).adoptSensorsHalf.canonical
      (n := { n with sensorsMarker := .none, sensorsResult := resultOf (sensorsFailure n) e.time }) { h with }
    exact ⟨{ adopted with }, rfl, rfl, rfl, by simp [hf], rfl, rfl, rfl, rfl⟩
  · rw [judgeSensors_failed hf, if_neg fun hc => hf hc.1]
    exact ⟨{ h with }, rfl, rfl, rfl, (List.append_nil _).symm, rfl, rfl, rfl, rfl⟩

/-- The cross-check judged leaves what the end of its job reads. -/
theorem judgeCross_judges : n.Judges (judgeCross e n) [] n.topologyMarker n.sensorsMarker := by
  have written : Net.Canonical { n with crossResult := resultOf (crossFailure n) e.time } := { h with }
  by_cases hf : crossFailure n = none
  · rw [judgeCross_passed hf]
    exact ⟨(Keeps.refl _).goLive e |>.canonical written, rfl, rfl, rfl, (List.append_nil _).symm, rfl, rfl, rfl, rfl⟩
  · rw [judgeCross_failed hf]
    exact ⟨written.unadopt, rfl, rfl, rfl, (List.append_nil _).symm, rfl, rfl, rfl, rfl⟩

end

/-! ### What the validations leave of the image -/

section

variable {e : Env} {n : Net} (h : n.Canonical)
include h

/-- What topology validation leaves of the image (R16 to R18). -/
theorem judgeTopology_image (hw : n.walker.isSome = true) {t : Net} (ht : t.image = (judgeTopology e n).image) :
    (t.topologyResult = resultOf (topologyFailure n) e.time ∧ t.sensorsResult = n.sensorsResult ∧
      t.crossResult = n.crossResult ∧ t.live = n.live ∧ n.SensorsStay t) ∧
    (topologyFailure n = none → t.topologyAdopted = true ∧ n.TopologyTags t Tag.adopt ∧
      ∀ k, (t.node k).edges = if (n.node k).tag = .staged then adjacency n k else (n.node k).edges) ∧
    (topologyFailure n ≠ none → n.TopologyStays t) := by
  by_cases hf : topologyFailure n = none
  · have image : t.image = Net.image { adoptTopologyHalf n with topologyResult := resultOf (topologyFailure n) e.time } :=
      ht.trans (by rw [judgeTopology_passed hw hf]; rfl)
    refine ⟨⟨(congrArg Net.topologyResult image :), (congrArg Net.sensorsResult image :), (congrArg Net.crossResult image :),
      (congrArg Net.live image :), .of_image image (.refl n)⟩, fun _ => ⟨(congrArg Net.topologyAdopted image :),
      .of_image image (topologyTags_adopt h), fun k => ?_⟩, fun hne => absurd hf hne⟩
    have node : t.node k = (adoptTopologyHalf n).node k := (congrArg (Net.node · k) image :)
    rw [node, node_adoptTopologyHalf h]
  · have image : t.image = Net.image { n with topologyResult := resultOf (topologyFailure n) e.time } :=
      ht.trans (by rw [judgeTopology_failed hf]; rfl)
    exact ⟨⟨(congrArg Net.topologyResult image :), (congrArg Net.sensorsResult image :), (congrArg Net.crossResult image :),
      (congrArg Net.live image :), .of_image image (.refl n)⟩, fun hn => absurd hn hf, fun _ => .of_image image (.refl n)⟩

/-- What sensor validation leaves of the image (R16, R19). -/
theorem judgeSensors_image (hw : n.walker.isSome = true) {t : Net} (ht : t.image = (judgeSensors e n).image) :
    (t.sensorsResult = resultOf (sensorsFailure n) e.time ∧ t.topologyResult = n.topologyResult ∧
      t.crossResult = n.crossResult ∧ t.live = n.live ∧ n.TopologyStays t) ∧
    (sensorsFailure n = none → t.sensorsAdopted = true ∧ n.SensorTags t Tag.adopt) ∧
    (sensorsFailure n ≠ none → n.SensorsStay t) := by
  by_cases hf : sensorsFailure n = none
  · have image : t.image = Net.image { adoptSensorsHalf n with sensorsResult := resultOf (sensorsFailure n) e.time } :=
      ht.trans (by rw [judgeSensors_passed hw hf]; rfl)
    exact ⟨⟨(congrArg Net.sensorsResult image :), (congrArg Net.topologyResult image :), (congrArg Net.crossResult image :),
      (congrArg Net.live image :), .of_image image (.refl n)⟩, fun _ => ⟨(congrArg Net.sensorsAdopted image :),
      .of_image image (sensorTags_adopt h)⟩, fun hne => absurd hf hne⟩
  · have image : t.image = Net.image { n with sensorsResult := resultOf (sensorsFailure n) e.time } :=
      ht.trans (by rw [judgeSensors_failed hf]; rfl)
    exact ⟨⟨(congrArg Net.sensorsResult image :), (congrArg Net.topologyResult image :), (congrArg Net.crossResult image :),
      (congrArg Net.live image :), .of_image image (.refl n)⟩, fun hn => absurd hn hf, fun _ => .of_image image (.refl n)⟩

/-- What the cross-check leaves of the image (R16, R20, R21). -/
theorem judgeCross_image {t : Net} (ht : t.image = (judgeCross e n).image) :
    (t.crossResult = resultOf (crossFailure n) e.time ∧ t.topologyResult = n.topologyResult ∧
      t.sensorsResult = n.sensorsResult ∧ t.dropped = n.dropped) ∧
    (crossFailure n = none → t.live = true ∧ n.TopologyStays t ∧ t.sensorsAdopted = n.sensorsAdopted ∧
      (∀ k, t.sensor k = (goLive e n).sensor k) ∧ ∀ k, t.cell k = (goLive e n).cell k) ∧
    (crossFailure n ≠ none → t.live = false ∧ t.topologyAdopted = false ∧ t.sensorsAdopted = false ∧
      n.TopologyTags t Tag.unadopt ∧ n.SensorTags t Tag.unadopt ∧ ∀ k, (t.node k).edges = []) := by
  by_cases hf : crossFailure n = none
  · have image : t.image = Net.image { goLive e n with crossResult := resultOf (crossFailure n) e.time } :=
      ht.trans (by rw [judgeCross_passed hf]; rfl)
    exact ⟨⟨(congrArg Net.crossResult image :), (congrArg Net.topologyResult image :), (congrArg Net.sensorsResult image :),
      (congrArg Net.dropped image :)⟩, fun _ => ⟨(congrArg Net.live image :),
        .of_image image (.refl n), (congrArg Net.sensorsAdopted image :),
        fun k => (congrArg (Net.sensor · k) image :), fun k => (congrArg (Net.cell · k) image :)⟩, fun hne => absurd hf hne⟩
  · have image : t.image = Net.image { unadopt n with crossResult := resultOf (crossFailure n) e.time } :=
      ht.trans (by rw [judgeCross_failed hf]; rfl)
    refine ⟨⟨(congrArg Net.crossResult image :), (congrArg Net.topologyResult image :), (congrArg Net.sensorsResult image :),
      (congrArg Net.dropped image :)⟩, fun hn => absurd hn hf, fun _ => ⟨(congrArg Net.live image :),
      (congrArg Net.topologyAdopted image :), (congrArg Net.sensorsAdopted image :), .of_image image (topologyTags_unadopt h),
      .of_image image (sensorTags_unadopt h), fun k => ?_⟩⟩
    have node : t.node k = (unadopt n).node k := (congrArg (Net.node · k) image :)
    rw [node, node_unadopt h]

end

/-! ### The completions as commands -/

theorem isSome_of_runningJob {n : Net} {j : Job} (h : runningJob n = some j) : n.walker.isSome = true := by
  unfold runningJob at h
  cases hw : n.walker with
  | none => rw [hw] at h; cases h
  | some w => rfl

section

variable {s : State} (released : s.resetAsserted = false) (settled : s.net.Settled)
include released settled

/-- A completion that ends a validation, as a command: IMAGE is raised, the walker goes on, and the image is as judged. -/
theorem exec_validation {c : Instr} {f : Env → Net → Net} (hc : exec c s = .next (s.occur f)) {job : Nat} {r : AdoptionResult}
    {q : Net} (hf : f s.env s.net = endValidation s.env job r q) {added : List Job} {tm sm : Marker}
    (v : s.net.Judges q added tm sm) (hw : s.net.walker.isSome = true) :
    ∃ t, exec c s = .next { s with net := t } ∧ s.net.Raised t s.time job r ∧
      s.net.GoesOn t added tm sm ∧ t.image = q.image := by
  have raised := v.raised s.env job r
  obtain ⟨jobs, walker, topology, sensors, completed⟩ := v.goesOn hw s.env job r
  have image := endValidation_image s.env job r q
  have whole := v.settle_end settled s.env job r
  rw [← hf] at *
  refine ⟨judgeAttn (f s.env s.net), ?_, raised, ⟨jobs, walker, topology, sensors, completed⟩, image⟩
  rw [hc, occur_released released, State.event, whole]

variable (canonical : s.net.Canonical)
include canonical

/-- TOPOLOGY_VALIDATION_COMPLETION while its job runs. -/
theorem exec_topologyValidation (hr : runningJob s.net = some .adoptTopology) : ∃ t,
    exec .topologyValidationCompletion s = .next { s with net := t } ∧
    s.net.Raised t s.time 0 (judgeTopology s.env s.net).topologyResult ∧
    s.net.GoesOn t (if topologyFailure s.net = none ∧ s.net.sensorsAdopted = true then [.crossCheck] else []) .none
      s.net.sensorsMarker ∧ t.image = (judgeTopology s.env s.net).image := by
  refine exec_validation released settled (f := topologyCompletion) rfl ?_
    (judgeTopology_judges canonical (isSome_of_runningJob hr)) (isSome_of_runningJob hr)
  unfold topologyCompletion; rw [hr]; exact completeTopology_eq ..

/-- SENSOR_VALIDATION_COMPLETION while its job runs. -/
theorem exec_sensorValidation (hr : runningJob s.net = some .adoptSensors) : ∃ t,
    exec .sensorValidationCompletion s = .next { s with net := t } ∧
    s.net.Raised t s.time 1 (judgeSensors s.env s.net).sensorsResult ∧
    s.net.GoesOn t (if sensorsFailure s.net = none ∧ s.net.topologyAdopted = true then [.crossCheck] else []) s.net.topologyMarker
      .none ∧ t.image = (judgeSensors s.env s.net).image := by
  refine exec_validation released settled (f := sensorsCompletion) rfl ?_
    (judgeSensors_judges canonical (isSome_of_runningJob hr)) (isSome_of_runningJob hr)
  unfold sensorsCompletion; rw [hr]; exact completeSensors_eq ..

/-- CROSS_CHECK_COMPLETION while its job runs. -/
theorem exec_crossCheck (hr : runningJob s.net = some .crossCheck) : ∃ t,
    exec .crossCheckCompletion s = .next { s with net := t } ∧
    s.net.Raised t s.time 2 (judgeCross s.env s.net).crossResult ∧
    s.net.GoesOn t [] s.net.topologyMarker s.net.sensorsMarker ∧ t.image = (judgeCross s.env s.net).image := by
  refine exec_validation released settled (f := crossCompletion) rfl ?_ (judgeCross_judges canonical) (isSome_of_runningJob hr)
  unfold crossCompletion; rw [hr]; exact completeCross_eq ..

end

/-- Settles O49: each validation is judged, and the end of its job leaves the image as judged, raises IMAGE and starts the next
job; the failures are the first that the lists of the entries find. -/
theorem validationsAdoptOrReport : Obligations.ValidationsAdoptOrReport := by
  refine ⟨fun s released canonical settled => ⟨fun hr => ?_, fun hr => ?_, fun hr => ?_⟩, ⟨rfl, rfl, rfl, rfl, rfl, rfl⟩,
    fun now => ⟨rfl, fun f => rfl⟩, fun n pipes valves nodes sources guarded h hp hv hn hs hg => ⟨?_, fun k => ?_⟩,
    fun n cells h hc => sensorsFailure_eq h hc, fun n sensors cells h hs hc => ?_⟩
  · obtain ⟨t, run, raised, ⟨jobs, walker, topology, sensors, completed⟩, image⟩ :=
      exec_topologyValidation released settled canonical.net hr
    obtain ⟨⟨own, sensorsResult, crossResult, live, stays⟩, passed, failed⟩ :=
      judgeTopology_image canonical.net (isSome_of_runningJob hr) image
    rw [← show t.topologyResult = (judgeTopology s.env s.net).topologyResult from (congrArg Net.topologyResult image :)] at raised
    exact ⟨_, run, own, sensorsResult, crossResult, raised, live, stays, ⟨jobs, walker, topology, sensors, completed, rfl⟩, passed,
      failed⟩
  · obtain ⟨t, run, raised, ⟨jobs, walker, topology, sensors, completed⟩, image⟩ :=
      exec_sensorValidation released settled canonical.net hr
    obtain ⟨⟨own, topologyResult, crossResult, live, stays⟩, passed, failed⟩ :=
      judgeSensors_image canonical.net (isSome_of_runningJob hr) image
    rw [← show t.sensorsResult = (judgeSensors s.env s.net).sensorsResult from (congrArg Net.sensorsResult image :)] at raised
    exact ⟨_, run, own, topologyResult, crossResult, raised, live, stays, ⟨jobs, walker, topology, sensors, completed, rfl⟩, passed,
      failed⟩
  · obtain ⟨t, run, raised, ⟨jobs, walker, topology, sensors, completed⟩, image⟩ :=
      exec_crossCheck released settled canonical.net hr
    obtain ⟨⟨own, topologyResult, sensorsResult, dropped⟩, passed, failed⟩ := judgeCross_image canonical.net image
    rw [← show t.crossResult = (judgeCross s.env s.net).crossResult from (congrArg Net.crossResult image :)] at raised
    refine ⟨_, run, own, topologyResult, sensorsResult, raised, dropped, ⟨jobs, walker, topology, sensors, completed, rfl⟩,
      fun hf => ?_, failed⟩
    obtain ⟨live, stays, adopted, sensor, cell⟩ := passed hf
    exact ⟨live, stays, adopted, fun k => (sensor k).trans (sensor_goLive canonical.net s.env k),
      fun k => (cell k).trans (cell_goLive canonical.net s.env k)⟩
  · unfold topologyFailure
    rw [overEdges_eq h hp hv, overEdges_eq h hp hv, degreeFailure_eq h hn, sourceFailure_eq h hs, protectedFailure_eq h hg]
    simp only [missingEnd_eq]
    rfl
  · exact adjacency_eq h hp hv k
  · exact crossFailure_eq h hs hc

end Sys2Proof.Machine
end

section
/-! SUPPORT. What a command comes to: an access of the station bus, an event of the part, a reset command or the advance; and what is left
of it while RESET_N is asserted (R24, R25, R40, R41). -/

namespace Sys2Proof.Machine

/-! ### The access that a command spells (R192; log 2) -/

theorem takeAccess_record (s : State) (r : RecordWord) (write : Bool) (be : Enables) (data : Word) (m : Master) :
    s.takeAccess ⟨write, apertureBase s.anch + recordOffset r, be, data, m⟩ =
      s.takePlace (.record r) ⟨write, apertureBase s.anch + recordOffset r, be, data, m⟩ :=
  congrArg (s.takePlace · _) (placeOf_record s.anch r)

theorem takeAccess_command (s : State) (v : BitVec 11) (w : BitVec 2) (write : Bool) (be : Enables) (data : Word) (m : Master) :
    s.takeAccess ⟨write, apertureBase s.anch + commandOffset v.toNat w.toNat, be, data, m⟩ =
      s.takePlace (.command v.toNat w.toNat) ⟨write, apertureBase s.anch + commandOffset v.toNat w.toNat, be, data, m⟩ :=
  congrArg (s.takePlace · _) (placeOf_command s.anch v w)

theorem takeAccess_latch (s : State) (k : BitVec 5) (write : Bool) (be : Enables) (data : Word) (m : Master) :
    s.takeAccess ⟨write, apertureBase s.anch + latchOffset k.toNat, be, data, m⟩ =
      s.takePlace (.report (latchOffset k.toNat)) ⟨write, apertureBase s.anch + latchOffset k.toNat, be, data, m⟩ :=
  congrArg (s.takePlace · _) (placeOf_latch s.anch k)

/-- A full write of a record word is the access at its offset. -/
theorem fullRecordWrite_access (s : State) (r : RecordWord) (data : Word) (m : Master) :
    s.fullRecordWrite r data m = s.takeAccess (fullWrite s.anch (recordOffset r) data m) :=
  (takeAccess_record s r true allEnables data m).symm

/-- A request's command is the final-word write of its control record. -/
theorem exec_request {c : Instr} {w : ControlWrite} {kind : BitVec 8} (h : requestOf c = some (w, kind)) (s : State) :
    exec c s = .next (s.takeAccess (controlAccess s.anch w kind)) := by
  have run : exec c s = .next (s.controlWrite w kind) := by cases c <;> cases h <;> rfl
  rw [run]
  exact congrArg _ (fullRecordWrite_access s (.control 7) (controlWord7 w kind) w.master)

/-- What a command comes to: the access that it spells, an event of the part itself, or one of the three commands about RESET_N and the
time counter. -/
theorem exec_cases (c : Instr) (s : State) :
    (∃ a, accessOf s.anch c = some a ∧ exec c s = .next (s.takeAccess a)) ∨
    (accessOf s.anch c = none ∧ ∃ f, exec c s = .next (s.occur f)) ∨
    c = .resetNAssert ∨ (∃ a l, c = .resetNRelease a l) ∨ c = .timeCounterAdvance := by
  cases c with
  | resetNAssert => exact .inr (.inr (.inl rfl))
  | resetNRelease a l => exact .inr (.inr (.inr (.inl ⟨a, l, rfl⟩)))
  | timeCounterAdvance => exact .inr (.inr (.inr (.inr rfl)))
  | passedAccess a => exact .inl ⟨a, rfl, rfl⟩
  | nonFinalWordWrite r data m | incompleteRecord r data m =>
    exact .inl ⟨_, rfl, congrArg _ (fullRecordWrite_access s r data m)⟩
  | imageRecord slot w m => exact .inl ⟨_, rfl, congrArg _ (fullRecordWrite_access s (.image slot 3) w m)⟩
  | sampleRecord slot w m => exact .inl ⟨_, rfl, congrArg _ (fullRecordWrite_access s (.sample slot 1) w m)⟩
  | positionReport slot w m => exact .inl ⟨_, rfl, congrArg _ (fullRecordWrite_access s (.position slot 1) w m)⟩
  | controlUnknownKind w m => exact .inl ⟨_, rfl, congrArg _ (fullRecordWrite_access s (.control 7) w m)⟩
  | partialWrite r data be m => exact .inl ⟨_, rfl, congrArg _ (takeAccess_record s r true be data m).symm⟩
  | commandRead v w be m => exact .inl ⟨_, rfl, congrArg _ (takeAccess_command s v w false be 0 m).symm⟩
  | commandWrite v w data be m => exact .inl ⟨_, rfl, congrArg _ (takeAccess_command s v w true be data m).symm⟩
  | lostLatchRead k be m => exact .inl ⟨_, rfl, congrArg _ (takeAccess_latch s k false be 0 m).symm⟩
  | adoptTopology w | adoptSensors w | reopenImage w | isolateNode w | confirm w | release w | retract w | testValve w
  | valveServiceOut w | valveServiceIn w | setDemand w | rebaseline w | setCause w | ackCauses w =>
    exact .inl ⟨_, rfl, exec_request rfl s⟩
  | sensorLossExpiry k | sensorPersistenceExpiry k | cellPersistenceExpiry k | holdExpiry i | pickupTimerExpiry v
  | progressTimerExpiry v | deadlineExpiry v => exact .inr (.inl ⟨rfl, _, rfl⟩)
  | boundaryJobCompletion | supplyJobCompletion | abandonedJobCompletion | topologyValidationCompletion | sensorValidationCompletion
  | crossCheckCompletion => exact .inr (.inl ⟨rfl, _, rfl⟩)

/-- A command that spells an access is that access. -/
theorem exec_access {c : Instr} {a : Access} {s : State} (h : accessOf s.anch c = some a) : exec c s = .next (s.takeAccess a) := by
  rcases exec_cases c s with ⟨b, hb, run⟩ | ⟨hn, _⟩ | rfl | ⟨_, _, rfl⟩ | rfl
  · rw [run, Option.some.inj (hb.symm.trans h)]
  · exact nomatch hn.symm.trans h
  · exact nomatch h
  · exact nomatch h
  · exact nomatch h

/-- Settles O6: a command that spells an access is that access, and each offset by its definition. -/
theorem busCommandIsTheAccessItSpells : Obligations.BusCommandIsTheAccessItSpells :=
  ⟨fun _ _ _ h => exec_access h, fun _ => rfl, fun r => by cases r <;> rfl, fun _ _ => ⟨rfl, rfl⟩⟩

/-! ### While RESET_N is asserted (R41) -/

theorem takeAccess_underReset {s : State} (h : s.resetAsserted = true) (a : Access) :
    s.takeAccess a = { s with port := .passed a } := if_pos h

theorem occur_underReset {s : State} (h : s.resetAsserted = true) (f : Env → Net → Net) : s.occur f = s := if_pos h

/-- Under reset an access passes, and no command but the reset commands takes effect. -/
theorem exec_underReset {c : Instr} {s : State} (h : s.resetAsserted = true) (h1 : c ≠ .resetNAssert)
    (h2 : ∀ a l, c ≠ .resetNRelease a l) :
    exec c s = .next (match accessOf s.anch c with
      | some a => { s with port := .passed a }
      | none => s) := by
  rcases exec_cases c s with ⟨a, ha, run⟩ | ⟨hn, f, run⟩ | rfl | ⟨a, l, rfl⟩ | rfl
  · rw [run, ha, takeAccess_underReset h]
  · rw [run, hn, occur_underReset h]
  · exact absurd rfl h1
  · exact absurd rfl (h2 a l)
  · exact congrArg _ (if_pos h)

/-- No command but the reset commands moves the reset pin. -/
theorem exec_resetAsserted {c : Instr} {s t : State} (h1 : c ≠ .resetNAssert) (h2 : ∀ a l, c ≠ .resetNRelease a l)
    (run : exec c s = .next t) : t.resetAsserted = s.resetAsserted := by
  by_cases h3 : c = .timeCounterAdvance
  · subst h3
    cases run
    cases h : s.resetAsserted with
    | true => exact h
    | false => exact (State.Outer.refl s).expireAll.resetAsserted.trans h
  · obtain ⟨u, run', outer⟩ := exec_outer c s h1 h2 h3
    cases run'.symm.trans run
    exact outer.resetAsserted

/-- Under reset a command leaves every block as it stands. -/
theorem State.HeldInReset.exec {c : Instr} {s t : State} (held : s.HeldInReset) (run : exec c s = .next t) : t.HeldInReset := by
  by_cases h1 : c = .resetNAssert
  · subst h1; cases run; exact fun _ => rfl
  by_cases h2 : ∃ a l, c = .resetNRelease a l
  · obtain ⟨a, l, rfl⟩ := h2; cases run; exact fun h => nomatch h
  have h2 : ∀ a l, c ≠ .resetNRelease a l := fun a l h => h2 ⟨a, l, h⟩
  intro ht
  have asserted : s.resetAsserted = true := (exec_resetAsserted h1 h2 run).symm.trans ht
  rw [exec_underReset asserted h1 h2] at run
  have blocks := held asserted
  cases ha : accessOf s.anch c with
  | some a =>
    rw [ha] at run
    cases run
    exact congrArg (fun u : State => { u with port := .passed a }) blocks
  | none => rw [ha] at run; cases run; exact blocks

/-- Settles O4: idling leaves the state, and a command leaves the blocks at their device-reset values while RESET_N is asserted. -/
theorem underResetEveryBlockStaysReset : Obligations.UnderResetEveryBlockStaysReset := by
  intro s t held run
  unfold step at run
  split at run
  · cases run; exact held
  · next c rest hp =>
    have held' : State.HeldInReset { s with pending := rest } := fun h =>
      congrArg (fun u : State => { u with pending := rest }) (held h)
    exact held'.exec run

/-! ### Accesses that no window treats (R24, R25, R27, R28, R192) -/

/-- An address outside the aperture is never decoded (R25). -/
theorem placeOf_beyond {anch : BitVec 8} {addr : Nat} (h : addr < anch.toNat * 2 ^ 20 ∨ (anch.toNat + 1) * 2 ^ 20 ≤ addr) :
    placeOf anch addr = .outside :=
  if_neg (by unfold apertureBase; omega)

/-- The two gaps of the aperture are in no window (R192). -/
theorem placeOfOffset_gap {off : Nat} (h : (0x1E020 ≤ off ∧ off < 0x20000) ∨ 0x40000 ≤ off) : placeOfOffset off = .outside := by
  unfold placeOfOffset
  iterate 5 rw [if_neg (by omega)]
  split
  · rfl
  · exact if_neg (by omega)

theorem placeOf_gap {anch : BitVec 8} {off : Nat} (h : (0x1E020 ≤ off ∧ off < 0x20000) ∨ (0x40000 ≤ off ∧ off < 2 ^ 20)) :
    placeOf anch (anch.toNat * 2 ^ 20 + off) = .outside := by
  have within : apertureBase anch ≤ anch.toNat * 2 ^ 20 + off ∧ anch.toNat * 2 ^ 20 + off < apertureBase anch + 2 ^ 20 := by
    unfold apertureBase; omega
  refine (if_pos within).trans (placeOfOffset_gap ?_)
  unfold apertureBase
  omega

/-- Settles O7: under reset by what a command comes to there; after it by the place of the access. -/
theorem accessesWithoutTreatmentPass : Obligations.AccessesWithoutTreatmentPass := by
  refine ⟨fun c s h h1 h2 => exec_underReset h h1 h2, fun s a h hp => ?_, fun _ _ h => placeOf_beyond h,
    fun _ _ h => placeOf_gap h⟩
  show Host.Outcome.next (s.takePlace (placeOf s.anch a.addr) a) = _
  rw [takePlace_released h]
  rcases hp with hp | ⟨hw, r, hp⟩ | ⟨hw, off, hp⟩
  · rw [hp]
  · simp [hp, hw]
  · simp [hp, hw]

/-! ### The time counter (R40; log 4) -/

/-- After its largest value the counter reads 0, and a timer started near it expires past 0. -/
theorem timerDue_startTimer (t now : Time) (d : Nat) :
    timerDue (startTimer t d) now = true ↔ now.toNat = (t.toNat + d) % 2 ^ 32 := by
  unfold timerDue startTimer
  rw [beq_iff_eq, Option.some.injEq, ← BitVec.toNat_inj, BitVec.toNat_add, BitVec.toNat_ofNat, Nat.add_mod_mod, eq_comm]

/-- An advance: the expiries that are left have occurred, and the counter goes up by one. -/
theorem exec_timeCounterAdvance {s : State} (h : s.resetAsserted = false) :
    exec .timeCounterAdvance s = .next { s.expireAll with time := s.time + 1 } := by
  have run : exec .timeCounterAdvance s = .next s.expireAll.tick := congrArg _ (if_neg (by simp [h]))
  rw [run, State.tick, (State.Outer.refl s).expireAll.time]

/-- Settles O5: the advance by the expiries that are left, the expiry commands by what they are. -/
theorem timeCounterAdvancesByOne : Obligations.TimeCounterAdvancesByOne := by
  refine ⟨fun s h => ⟨exec_timeCounterAdvance h, rfl, fun none => ?_, fun last => by rw [last]; rfl, State.expire_net h⟩,
    timerDue_startTimer, fun _ => rfl, fun n now x c => mem_dueExpiries c now x,
    fun s sensor cell incident valve => ⟨rfl, rfl, rfl, rfl, rfl, rfl, rfl⟩⟩
  rw [exec_timeCounterAdvance h, State.expireAll_of_none none]

end Sys2Proof.Machine
end

section
/-! SUPPORT. The collection of record words: what a latch or buffer word reads after a write and after marks are cleared, which words
belong to a record, and the writes that are stored, PARTIAL or INCOMPLETE (R26, R29 to R33). -/

namespace Sys2Proof.Machine

/-! ### Reads after writes (R29, R32) -/

/-- Two record words collected in one latch or buffer word read the same. -/
theorem latch_of_key (s : State) {p q : RecordWord} (h : latchKey p = latchKey q) : s.latch p = s.latch q := by
  cases p <;> cases q <;> simp_all [latchKey, State.latch]

/-- A write of one latch or buffer word leaves the others. -/
theorem latch_setLatch_other {s : State} (c : s.Canonical) {r p : RecordWord} (h : latchKey p ≠ latchKey r) (l : Latch) :
    (s.setLatch r l).latch p = s.latch p := by
  cases r with
  | image slot w =>
    cases p with
    | image => exact lookup_store_other c.imageBuffer (fun e => h (congrArg (Prod.mk 0) e)) l
    | _ => rfl
  | sample slot w =>
    cases p with
    | sample => exact lookup_store_other c.sampleLatches (fun e => h (congrArg (Prod.mk 1) e)) l
    | _ => rfl
  | position slot w =>
    cases p with
    | position => exact lookup_store_other c.positionLatches (fun e => h (congrArg (Prod.mk 2) e)) l
    | _ => rfl
  | control w =>
    cases p with
    | control => exact lookup_store_other c.controlBuffer (fun e => h (congrArg (Prod.mk 3) e)) l
    | _ => rfl

/-- What a word reads after the mark of one has been cleared. -/
theorem latch_clearMark {s : State} (c : s.Canonical) (r p : RecordWord) : (s.clearMark r).latch p =
    if latchKey p = latchKey r then ⟨(s.latch p).word, false⟩ else s.latch p := by
  split
  · next h => rw [latch_of_key _ h, latch_of_key s h]; exact latch_setLatch c r _
  · next h => exact latch_setLatch_other c h _

/-- What a word reads after the marks of several have been cleared. -/
theorem latch_clearAll {s : State} (c : s.Canonical) (l : List RecordWord) (p : RecordWord) : (l.foldl State.clearMark s).latch p =
    if latchKey p ∈ l.map latchKey then ⟨(s.latch p).word, false⟩ else s.latch p := by
  induction l generalizing s with
  | nil => rfl
  | cons r l ih =>
    rw [List.foldl_cons, ih (c.clearMark r), latch_clearMark c, List.map_cons]
    by_cases h : latchKey p = latchKey r <;> simp [h]

/-! ### The words of a record (R26, R29, R30) -/

/-- A non-final word of the latch or buffer to which a word belongs. -/
def IsPart (r p : RecordWord) : Prop :=
  p.isFinal = false ∧ match r, p with
    | .image _ _, .image _ _ => True
    | .sample slot _, .sample slot' _ => slot = slot'
    | .position slot _, .position slot' _ => slot = slot'
    | .control _, .control _ => True
    | _, _ => False

/-- The words listed are parts of the record. -/
theorem isPart_of_mem {r p : RecordWord} (h : p ∈ partsOf r) : IsPart r p := by
  cases r with
  | image slot w =>
    simp only [partsOf, List.mem_cons, List.not_mem_nil, or_false] at h
    rcases h with rfl | rfl | rfl <;> exact ⟨rfl, trivial⟩
  | sample slot w => cases List.mem_singleton.1 h; exact ⟨rfl, rfl⟩
  | position slot w => cases List.mem_singleton.1 h; exact ⟨rfl, rfl⟩
  | control w =>
    simp only [partsOf, List.mem_cons, List.not_mem_nil, or_false] at h
    rcases h with rfl | rfl | rfl | rfl | rfl | rfl | rfl <;> exact ⟨rfl, trivial⟩

/-- The parts of a record are the non-final words collected where a listed one is. -/
theorem isPart_iff {p : RecordWord} (hp : p.isFinal = false) (r : RecordWord) :
    IsPart r p ↔ latchKey p ∈ (partsOf r).map latchKey := by
  cases r <;> cases p
  case image.image w =>
    have nonfinal : w ≠ 3 := ne_of_beq_false hp
    simp [IsPart, hp, partsOf, latchKey]
    bv_omega
  case control.control w =>
    have nonfinal : w ≠ 7 := ne_of_beq_false hp
    simp [IsPart, hp, partsOf, latchKey]
    bv_omega
  all_goals simp [IsPart, hp, partsOf, latchKey, ← BitVec.toNat_inj, eq_comm]

/-- A record is complete when each of its parts has its mark. -/
theorem complete_iff (s : State) (r : RecordWord) : s.complete r = true ↔ ∀ p, IsPart r p → (s.latch p).mark = true := by
  rw [State.complete, List.all_eq_true]
  refine ⟨fun h p hp => ?_, fun h p hp => h p (isPart_of_mem hp)⟩
  obtain ⟨q, hq, key⟩ := List.mem_map.1 ((isPart_iff hp.1 r).1 hp)
  rw [← latch_of_key s key]
  exact h q hq

section

variable {s : State} (c : s.Canonical) {r p : RecordWord}
include c

theorem latch_clearMarks_part (h : IsPart r p) : (s.clearMarks r).latch p = ⟨(s.latch p).word, false⟩ := by
  rw [State.clearMarks, latch_clearAll c, if_pos ((isPart_iff h.1 r).1 h)]

theorem latch_clearMarks_other (hp : p.isFinal = false) (h : ¬ IsPart r p) : (s.clearMarks r).latch p = s.latch p := by
  rw [State.clearMarks, latch_clearAll c, if_neg (mt (isPart_iff hp r).2 h)]

end

/-! ### What the collection leaves (R29 to R32) -/

/-- Two states that differ in the latches and the buffers at most. -/
def State.SameButLatches (s t : State) : Prop := t = { s with
  imageBuffer := t.imageBuffer, sampleLatches := t.sampleLatches, positionLatches := t.positionLatches
  controlBuffer := t.controlBuffer }

/-- A collection that keeps the remembered image slot. -/
theorem State.Collects.sameButLatches {s t : State} (h : s.Collects t) (slot : t.imageSlot = s.imageSlot) : s.SameButLatches t := by
  obtain ⟨rest⟩ := h
  cases s
  cases t
  simp only [State.mk.injEq, State.SameButLatches] at rest slot ⊢
  simp [rest, slot]

theorem sameButLatches_setLatch (s : State) (r : RecordWord) (l : Latch) : s.SameButLatches (s.setLatch r l) := by
  cases r <;> rfl

theorem sameButLatches_clearMarks (s : State) (r : RecordWord) : s.SameButLatches (s.clearMarks r) :=
  ((State.Collects.refl s).clearMarks r).sameButLatches (clearMarks_imageSlot s r)

/-! ### The remembered image slot (R31) -/

theorem turnSlot_same {s : State} {slot : BitVec 12} (h : slot.toNat = s.imageSlot) (w : BitVec 2) :
    s.turnSlot (.image slot w) = s := if_pos h

theorem turnSlot_turned {s : State} {slot : BitVec 12} (h : slot.toNat ≠ s.imageSlot) (w : BitVec 2) :
    s.turnSlot (.image slot w) = { s.clearMarks (.image slot w) with imageSlot := slot.toNat } := if_neg h

theorem turnSlot_other (s : State) {r : RecordWord} (h : ∀ slot w, r ≠ .image slot w) : s.turnSlot r = s := by
  cases r with
  | image slot w => exact absurd rfl (h slot w)
  | sample | position | control => rfl

theorem latch_withSlot (s : State) (r : RecordWord) (slot : Nat) : State.latch { s with imageSlot := slot } r = s.latch r := by
  cases r <;> rfl

/-! ### Writes that are stored, PARTIAL or INCOMPLETE (R29, R30, R32) -/

/-- The record error of a write, after the collection and the port. -/
theorem event_busError {s t : State} (h : s.Collects t) (hs : s.net.Settled) (p : Port) (r : RecordWord) (why : RecordReason)
    (m : Master) : State.event (busError r why m) { t with port := p } = { t with
      port := p
      net := judgeAttn (recordError s.env (windowOf r) why { slot := slotOf r, word := some (indexOf r), master := some m } s.net) } := by
  have judged := settle_recordError s.env hs (windowOf r) why { slot := slotOf r, word := some (indexOf r), master := some m }
  rw [← judged, ← h.env, ← h.net]
  rfl

section

variable {s : State} {r : RecordWord} (a : Access)

/-- A full write of a non-final word is stored with its mark. -/
theorem writeRecord_stored (full : a.enables = allEnables) (hf : r.isFinal = false) :
    s.writeRecord r a = { (s.turnSlot r).setLatch r ⟨a.data, true⟩ with port := .passed a } := by
  unfold State.writeRecord
  rw [if_neg (fun partly => partly full), hf]
  exact setLatch_withPort ..

/-- A write with fewer than four enables clears the mark of a non-final word and is reported. -/
theorem writeRecord_partial (part : a.enables ≠ allEnables) (hs : s.net.Settled) :
    s.writeRecord r a = { (if r.isFinal then s.turnSlot r else (s.turnSlot r).clearMark r) with
      port := .passed a
      net := judgeAttn (recordError s.env (windowOf r) .partialWrite
        { slot := slotOf r, word := some (indexOf r), master := some a.master } s.net) } := by
  have turned : s.Collects (s.turnSlot r) := (State.Collects.refl s).turnSlot r
  unfold State.writeRecord
  rw [if_pos part]
  cases r.isFinal with
  | true => exact event_busError turned hs ..
  | false =>
    exact (congrArg (State.event _) (clearMark_withPort ..)).trans (event_busError (turned.setLatch r _) hs ..)

/-- A full write of a final word that finds a mark clear clears every mark and is reported. -/
theorem writeRecord_incomplete (full : a.enables = allEnables) (hf : r.isFinal = true) (hc : (s.turnSlot r).complete r = false)
    (hs : s.net.Settled) :
    s.writeRecord r a = { (s.turnSlot r).clearMarks r with
      port := .passed a
      net := judgeAttn (recordError s.env (windowOf r) .incomplete
        { slot := slotOf r, word := some (indexOf r), master := some a.master } s.net) } := by
  have cleared : s.Collects ((s.turnSlot r).clearMarks r) := ((State.Collects.refl s).turnSlot r).clearMarks r
  unfold State.writeRecord
  rw [if_neg (fun partly => partly full), hf, complete_withPort, hc]
  simp only [Bool.not_true, Bool.false_eq_true, if_false]
  rw [clearMarks_withPort]
  exact event_busError cleared hs ..

end

/-- Settles O10: the stored word is read back, the others are kept, and the turn of the image buffer clears its marks alone. -/
theorem recordWordIsStoredWithItsMark : Obligations.RecordWordIsStoredWithItsMark := by
  refine ⟨fun s r data m released c hf => ?_, fun s slot w c turned => ⟨turnSlot_turned turned w, ?_, fun slot' w' hw => ?_,
    fun r' hr => ?_⟩, fun s slot w same => turnSlot_same same w, fun s r other => turnSlot_other s other⟩
  · refine ⟨_, exec_nonFinalWordWrite released r data m, writeRecord_stored _ rfl hf, ?_, fun r' key => ?_⟩
    · rw [writeRecord_stored _ rfl hf, latch_withPort]; exact latch_setLatch (c.turnSlot r) r _
    · rw [writeRecord_stored _ rfl hf, latch_withPort]; exact latch_setLatch_other (c.turnSlot r) key _
  · rw [turnSlot_turned turned]
  · rw [turnSlot_turned turned, latch_withSlot]
    exact latch_clearMarks_part c ⟨beq_false_of_ne hw, trivial⟩
  · rw [turnSlot_turned turned, latch_withSlot, State.clearMarks, latch_clearAll c, if_neg]
    cases r' with
    | image slot' w' => exact absurd rfl (hr slot' w')
    | sample | position | control => simp [partsOf, latchKey]

/-- Settles O11: the reported writes by their record error, the marks by the words of the record. -/
theorem partialAndIncompleteWritesAreReported : Obligations.PartialAndIncompleteWritesAreReported := by
  refine ⟨fun s r data be m released settled part => ?_, fun s r data m released settled hf hc => ?_, fun s r c => ?_, fun r => ?_⟩
  · rw [exec_partialWrite released, writeRecord_partial _ part settled]
  · rw [exec_incompleteRecord released, writeRecord_incomplete _ rfl hf hc settled]; rfl
  · exact ⟨complete_iff s r, sameButLatches_setLatch s r _, latch_setLatch c r _, fun p key => latch_setLatch_other c key _,
      sameButLatches_clearMarks s r, fun p h => latch_clearMarks_part c h, fun p hp h => latch_clearMarks_other c hp h,
      sameButLatches_setLatch s r⟩
  · cases r <;> exact ⟨beq_iff_eq, rfl, rfl, rfl⟩

end Sys2Proof.Machine
end

section
/-! SUPPORT. The command window: writes suppressed or passed into the shadow, reads answered from the image, and pickups (R34 to R39, R154,
R156, R165, R173). -/

namespace Sys2Proof.Machine

/-! ### Byte lanes (R24, R35; log 31) -/

/-- Bit `i` of the mask is the enable of its byte. -/
theorem enableMask_getLsbD (be : Enables) {i : Nat} (h : i < 32) : (enableMask be).getLsbD i = be.getLsbD (i / 8) := by
  have lane : ((List.range 4).map fun k => (8, if be.getLsbD k then 255 else 0))[i / 8]? =
      some (8, if be.getLsbD (i / 8) then 255 else 0) := by
    rw [List.getElem?_map, List.getElem?_range (by omega)]; rfl
  have below : ((((List.range 4).map fun k => (8, if be.getLsbD k then 255 else 0)).take (i / 8)).map Prod.fst).sum = 8 * (i / 8) := by
    rw [← List.map_take, List.map_map, List.take_range, Nat.min_eq_left (by omega)]
    show ((List.range (i / 8)).map fun _ => 8).sum = 8 * (i / 8)
    rw [List.map_const', List.sum_replicate_nat, List.length_range, Nat.mul_comm]
  have bit := flagBit_pack_field (i / 8) lane below (by omega) (Nat.mod_lt i (by decide))
  rw [Nat.div_add_mod] at bit
  refine bit.trans ?_
  cases be.getLsbD (i / 8) with
  | false => exact Nat.zero_testBit _
  | true => exact (Nat.testBit_two_pow_sub_one 8 _).trans (decide_eq_true (Nat.mod_lt i (by decide)))

/-- A merged word takes the enabled bytes of the new word and the others of the old. -/
theorem mergeBytes_getLsbD (be : Enables) (old new : Word) {i : Nat} (h : i < 32) :
    (mergeBytes be old new).getLsbD i = if be.getLsbD (i / 8) then new.getLsbD i else old.getLsbD i := by
  unfold mergeBytes
  simp only [BitVec.getLsbD_or, BitVec.getLsbD_and, BitVec.getLsbD_not, enableMask_getLsbD be h]
  cases be.getLsbD (i / 8) <;> simp [h]

/-! ### Suppression (R34, R37) -/

/-- A write to the slot is suppressed while the valve has a holder, or is CONTROLLED with an image that is no test's. -/
theorem suppresses_iff (x : Valve) : suppresses x = true ↔
    x.holders ≠ [] ∨ (x.control = .controlled ∧ ∃ i, x.image = some i ∧ i.source ≠ .test) := by
  unfold suppresses
  cases x.image <;> simp

/-- A raise gives no notice and leaves the incidents. -/
theorem settle_raise {n : Net} (e : Env) (h : n.Settled) (c : Cause) (subject detail : Nat) :
    settle e (raise e c subject detail n) = judgeAttn (raise e c subject detail n) := settle_as e h rfl rfl

/-- A valve written gives no notice by itself. -/
theorem settle_setValve {n : Net} (e : Env) (h : n.Settled) (v : Nat) (x : Valve) :
    settle e (n.setValve v x) = judgeAttn (n.setValve v x) := settle_as e h rfl rfl

/-! ### The notice of a passed write (R36, R165, R173) -/

theorem processorWrite_idle (e : Env) {v : Nat} {n : Net} (test : (n.valve v).underTest = false)
    (control : (n.valve v).control ≠ .handbackPending) : processorWrite e v n = n := by
  simp [processorWrite, test, control]

theorem processorWrite_handback (e : Env) {v : Nat} {n : Net} (test : (n.valve v).underTest = false)
    (control : (n.valve v).control = .handbackPending) :
    processorWrite e v n = n.setValve v { n.valve v with control := .free, image := none } := by
  simp [processorWrite, test, control]

theorem processorWrite_test (e : Env) {v : Nat} {n : Net} (test : (n.valve v).underTest = true) :
    processorWrite e v n = endTest e v .aborted (n.valve v).purpose .none .processorWrite
      (vacate e v (noteValve v false (n.setValve v
        { (n.valve v).still with motion := .rest, purpose := .none, control := .free, image := none }))) := by
  simp [processorWrite, abortTest, test]

/-- The end of a test writes the test record, and leaves the queue and the slots. -/
theorem valve_endTest {n : Net} (c : n.Canonical) (e : Env) (v : Nat) (result : TestResult) (leg : Purpose) (fault : FaultReason)
    (abort : AbortCause) : (endTest e v result leg fault abort n).valve v = { n.valve v with
      test := { (n.valve v).test with result := result, leg := leg, fault := fault, abort := abort, time := e.time } } :=
  c.valve_setValve_same ..

/-- A processor write in a test: the valve rests, FREE and without an image, out of the queue and the slots, its test aborted. -/
theorem processorWrite_aborts (e : Env) {v : Nat} {n : Net} (c : n.Canonical) (test : (n.valve v).underTest = true) :
    (processorWrite e v n).valve v = { (n.valve v).still with
      motion := .rest, purpose := .none, control := .free, image := none
      test := { (n.valve v).test with
        result := .aborted, leg := (n.valve v).purpose, fault := .none, abort := .processorWrite, time := e.time } } ∧
    v ∉ (processorWrite e v n).slots ∧ v ∉ (processorWrite e v n).queue.all := by
  let rested : Valve := { (n.valve v).still with motion := .rest, purpose := .none, control := .free, image := none }
  have noted : (noteValve v false (n.setValve v rested)).valve v = rested := by
    rw [valve_noteValve]; exact c.valve_setValve_same ..
  have apart := vacate_apart ((Keeps.refl n).setValve v rested |>.noteValve v false |>.canonical c) e v
  rw [noted] at apart
  rw [processorWrite_test e test]
  generalize vacate e v _ = n' at apart ⊢
  refine ⟨?_, apart.slot, apart.queue⟩
  rw [valve_endTest apart.canonical, apart.valve]
  rfl

/-! ### Writes (R34 to R37) -/

section

variable {s : State} {v word : Nat} (a : Access)

/-- A suppressed write of another word than word 3 is counted. -/
theorem writeCommand_counted (guarded : suppresses (s.net.valve v) = true) (hw : word ≠ 3) : s.writeCommand v word a =
    { s with port := .suppressed a, refusalCount := satInc s.refusalCount } :=
  (if_pos guarded).trans (if_pos hw)

/-- A suppressed write of word 3 is counted, listed and reported. -/
theorem writeCommand_listed (guarded : suppresses (s.net.valve v) = true) (settled : s.net.Settled) : s.writeCommand v 3 a =
    { s with
      port := .suppressed a
      refusalCount := satInc s.refusalCount
      refusals := (if 8 ≤ s.refusals.length then s.refusals.drop 1 else s.refusals) ++
        [⟨v, a.data &&& enableMask a.enables, (s.net.valve v).holders, (s.net.valve v).control, s.time⟩]
      net := judgeAttn (raise s.env .writeRefused v (s.net.valve v).control.code s.net) } := by
  rw [← settle_raise s.env settled]
  exact if_pos guarded

/-- A passed write is copied into the shadow. -/
def State.mirrored (s : State) (v word : Nat) (a : Access) : State :=
  { s with
    port := .passed a
    shadow := store ShadowWord.atReset s.shadow (4 * v + word) ((lookup ShadowWord.atReset s.shadow (4 * v + word)).written a) }

theorem writeCommand_mirrored (free : suppresses (s.net.valve v) = false) (hw : word ≠ 3) :
    s.writeCommand v word a = s.mirrored v word a :=
  (if_neg (Bool.eq_false_iff.1 free)).trans (if_neg hw)

/-- A passed write of word 3 tells the Stroke Controller. -/
theorem writeCommand_told (free : suppresses (s.net.valve v) = false) : s.writeCommand v 3 a =
    { s.mirrored v 3 a with net := settle (s.mirrored v 3 a).env (processorWrite (s.mirrored v 3 a).env v s.net) } :=
  if_neg (Bool.eq_false_iff.1 free)

/-- Outside a test a passed write of word 3 ends HANDBACK_PENDING. -/
theorem writeCommand_handedBack (free : suppresses (s.net.valve v) = false) (test : (s.net.valve v).underTest = false)
    (control : (s.net.valve v).control = .handbackPending) (settled : s.net.Settled) : s.writeCommand v 3 a =
    { s.mirrored v 3 a with net := judgeAttn (s.net.setValve v { s.net.valve v with control := .free, image := none }) } := by
  rw [writeCommand_told a free, processorWrite_handback _ test control, settle_setValve _ settled]

/-- Outside a test and HANDBACK_PENDING the notice has no effect. -/
theorem writeCommand_untold (free : suppresses (s.net.valve v) = false) (test : (s.net.valve v).underTest = false)
    (control : (s.net.valve v).control ≠ .handbackPending) (settled : s.net.Settled) : s.writeCommand v 3 a =
    { s.mirrored v 3 a with net := judgeAttn s.net } := by
  rw [writeCommand_told a free, processorWrite_idle _ test control, settle_settled_net _ settled]

end

/-- Settles O40: each write by whether the slot is guarded and its word is word 3, the byte lanes by the mask, and the end of a test by
what it leaves of the valve. -/
theorem commandWriteIsSuppressedOrPassed : Obligations.CommandWriteIsSuppressedOrPassed := by
  refine ⟨fun s valve word data be m released settled => ?_, fun be old new i h => mergeBytes_getLsbD be old new h,
    fun e v n c test => ?_⟩
  · intro v x a guarded counted key h mirrored
    have suppressed : guarded → suppresses x = true := (suppresses_iff x).2
    have passed : ¬ guarded → suppresses x = false := fun free => Bool.eq_false_iff.2 (mt (suppresses_iff x).1 free)
    have other : word ≠ 3 → word.toNat ≠ 3 := fun hw h => hw (BitVec.eq_of_toNat_eq h)
    rw [exec_commandWrite released]
    refine ⟨fun g hw => ?_, fun g hw => ?_, fun g hw => ?_, fun g hw test control => ?_, fun g hw test control => ?_,
      fun g hw test => ?_⟩
    · rw [writeCommand_counted _ (suppressed g) (other hw)]; rfl
    · subst hw; exact congrArg _ (writeCommand_listed _ (suppressed g) settled)
    · exact congrArg _ (writeCommand_mirrored _ (passed g) (other hw))
    · subst hw; exact congrArg _ (writeCommand_handedBack _ (passed g) test control settled)
    · subst hw; exact congrArg _ (writeCommand_untold _ (passed g) test control settled)
    · subst hw; exact congrArg _ (writeCommand_told _ (passed g))
  · obtain ⟨valve, slot, queued⟩ := processorWrite_aborts e c test
    intro t
    rw [valve]
    exact ⟨rfl, rfl, rfl, rfl, rfl, rfl, rfl, slot, queued⟩

/-! ### Reads (R38, R39) -/

/-- A packed word shows its fields, each reduced to its width; that they fit is judged by computation. -/
theorem shows_packed {fs gs : List (Nat × Nat)} (fits : Nat.ble (fs.map Prod.fst).sum 32 = true)
    (h : fs.map (fun f => (f.1, f.2 % 2 ^ f.1)) = gs) : Shows (pack fs) gs := shows_pack (Nat.le_of_ble_eq_true fits) h

/-- The words of an image show its fields (R193). -/
theorem image_shows (m : Image) :
    Shows (m.word 0) [(10, m.target % 2 ^ 10)] ∧ Shows (m.word 1) [(10, m.rate % 2 ^ 10)] ∧
    Shows (m.word 2) [(3, m.purpose.code), (5, 0), (2, m.source.code)] ∧ Shows (m.word 3) [(16, m.sequence.toNat)] := by
  refine ⟨shows_packed rfl rfl, shows_packed rfl rfl, shows_packed rfl ?_, shows_packed rfl ?_⟩
  · cases m.purpose <;> cases m.source <;> rfl
  · simp [Nat.mod_eq_of_lt m.sequence.isLt]

section

variable {s : State} {v word : Nat} (a : Access)

/-- A read of a FREE valve's slot passes. -/
theorem readCommand_free (free : (s.net.valve v).control = .free) : s.readCommand v word a = { s with port := .passed a } :=
  if_pos free

variable (held : (s.net.valve v).control ≠ .free)
include held

/-- A read that is no pickup returns the image word. -/
theorem readCommand_answered (plain : s.picksUp v word a = false) : s.readCommand v word a =
    { s with port := .answered a (imageWord (s.net.valve v).image word) } :=
  (if_neg held).trans (if_neg (Bool.eq_false_iff.1 plain))

/-- A pickup returns the image word and tells the Stroke Controller. -/
theorem readCommand_pickup (picked : s.picksUp v word a = true) : s.readCommand v word a =
    { s with port := .answered a (imageWord (s.net.valve v).image word), net := settle s.env (pickup s.env v s.net) } :=
  (if_neg held).trans (if_pos picked)

end

/-- A read is a pickup for word 3, by the actuator link, while the image awaits it (R39). -/
theorem picksUp_iff (s : State) (v word : Nat) (a : Access) : s.picksUp v word a = true ↔
    word = 3 ∧ a.master = s.linkid ∧ ∃ i, (s.net.valve v).image = some i ∧ i.awaiting = true := by
  unfold State.picksUp
  cases (s.net.valve v).image <;> simp [and_assoc]

/-! ### Pickups (R154, R156, R157) -/

section

variable (e : Env) {v : Nat} {n : Net} {i : Image} (image : (n.valve v).image = some i)
include image

/-- The pickup of an issued stroke starts its travel. -/
theorem pickup_issued (motion : (n.valve v).motion = .issued) :
    let x := n.valve v
    let start := x.startPosition i.target
    pickup e v n = noteValve v false (n.setValve v { x with
      image := some { i with awaiting := false }, pickup := none, motion := .travel, reference := start, best := start
      progress := startTimer e.time n.params.progressWindow
      deadline := startTimer e.time (x.deadlineTime n.params start i.target) }) := by
  unfold pickup
  simp [image, motion]

/-- Any other pickup ends the wait for it and the pickup timer. -/
theorem pickup_other (motion : (n.valve v).motion ≠ .issued) :
    pickup e v n = n.setValve v { n.valve v with image := some { i with awaiting := false }, pickup := none } := by
  unfold pickup
  simp [image, motion]

end

/-- The start position is the stored one, or without one the end away from the target (R154). -/
theorem startPosition_eq (x : Valve) (t : Nat) : (∀ r, x.report = some r → x.startPosition t = r.position) ∧
    (x.report = none → x.startPosition t = if t < 500 then 1000 else 0) := by
  unfold Valve.startPosition
  exact ⟨fun r h => by rw [h], fun h => by rw [h]⟩

/-- The expected time of a stroke, zone by zone (R156). -/
theorem expectedTime_eq (x : Valve) (s t : Nat) :
    let c := x.crossover
    let time := fun coarse fine : Nat => coarse * 100 / x.coarseRate + fine * 100 / x.fineRate
    (x.purpose = .close → x.expectedTime s t = time (s - max t c) (min s c - t)) ∧
    (x.purpose = .openUp ∨ x.purpose = .testBack → x.expectedTime s t = time (t - max s c) (min t c - s)) ∧
    (x.purpose = .testOut → x.expectedTime s t = time 0 (s - t)) := by
  unfold Valve.expectedTime
  refine ⟨fun h => by rw [h], ?_, fun h => ?_⟩
  · rintro (h | h) <;> rw [h]
  · rw [h]; simp

/-- Settles O41: each read by the control of the valve, its image and whether it is a pickup; the pickup by the motion it finds. -/
theorem commandReadIsPassedAnsweredOrAPickup : Obligations.CommandReadIsPassedAnsweredOrAPickup := by
  refine ⟨fun x s t => ?_, image_shows, fun s valve word be m released => ?_⟩
  · obtain ⟨stored, absent⟩ := startPosition_eq x t
    exact ⟨stored, absent, expectedTime_eq x s t⟩
  · intro v x p a
    rw [exec_commandRead released]
    refine ⟨fun free => congrArg _ (readCommand_free a free), fun held none => ?_, fun i held image => ?_⟩
    · have plain : s.picksUp v word.toNat a = false := Bool.eq_false_iff.2 fun picked => by
        obtain ⟨_, _, i, image, _⟩ := (picksUp_iff ..).1 picked
        exact nomatch none.symm.trans image
      rw [readCommand_answered a held plain, none]
      rfl
    · have word_eq : imageWord (s.net.valve v).image word.toNat = i.word word.toNat := by rw [image]; rfl
      refine ⟨fun reason => ?_, fun hw hm awaiting => ?_⟩
      · have plain : s.picksUp v word.toNat a = false := Bool.eq_false_iff.2 fun picked => by
          obtain ⟨h3, link, j, image', awaits⟩ := (picksUp_iff ..).1 picked
          cases image.symm.trans image'
          rcases reason with h | h | h
          · exact h (BitVec.eq_of_toNat_eq h3)
          · exact h link
          · exact nomatch h.symm.trans awaits
        rw [readCommand_answered a held plain, word_eq]
      · have picked : s.picksUp v word.toNat a = true := (picksUp_iff ..).2 ⟨congrArg _ hw, hm, i, image, awaiting⟩
        rw [readCommand_pickup a held picked, word_eq]
        refine ⟨fun issued => ?_, fun settled other => ?_⟩
        · rw [pickup_issued s.env image issued]; rfl
        · rw [pickup_other s.env image other, settle_setValve _ settled]

end Sys2Proof.Machine
end

section
/-! SUPPORT. The refusal list and its count: only a suppressed write changes them, and it keeps their bounds (R37). -/

namespace Sys2Proof.Machine

/-! ### What leaves the list and the count -/

/-- Two states with the same refusal list and count. -/
structure State.SameRefusals (s t : State) : Prop where
  list : t.refusals = s.refusals
  count : t.refusalCount = s.refusalCount

theorem State.SameRefusals.refl (s : State) : s.SameRefusals s := ⟨rfl, rfl⟩

theorem State.SameRefusals.port {s t : State} (h : s.SameRefusals t) (p : Port) : s.SameRefusals { t with port := p } :=
  ⟨h.list, h.count⟩

theorem State.SameRefusals.tick {s t : State} (h : s.SameRefusals t) : s.SameRefusals t.tick := ⟨h.list, h.count⟩

theorem State.SameRefusals.trans {a b c : State} (h : a.SameRefusals b) (h' : b.SameRefusals c) : a.SameRefusals c :=
  ⟨h'.list.trans h.list, h'.count.trans h.count⟩

theorem State.SameRefusals.event {s t : State} (h : s.SameRefusals t) (f : Env → Net → Net) : s.SameRefusals (t.event f) :=
  ⟨(event_refusals f t).trans h.list, (event_refusalCount f t).trans h.count⟩

theorem State.SameRefusals.occur {s t : State} (h : s.SameRefusals t) (f : Env → Net → Net) : s.SameRefusals (t.occur f) := by
  unfold State.occur
  split
  · exact h
  · exact h.event f

theorem sameRefusals_expireAll (s : State) : s.SameRefusals s.expireAll :=
  State.expireAll_induction (fun _ x h => h.occur x.take) (.refl s)

theorem State.SameRefusals.collected {s t u : State} (h : s.SameRefusals t) (h' : t.Collects u) : s.SameRefusals u :=
  h.trans ⟨h'.refusals, h'.refusalCount⟩

theorem State.SameRefusals.takeRecord {s t : State} (h : s.SameRefusals t) (r : RecordWord) (w : Word) :
    s.SameRefusals (t.takeRecord r w) := by
  cases r <;> simp only [State.takeRecord]
  case control => exact ⟨by simp only [State.takeControl, h.list], by simp only [State.takeControl, h.count]⟩
  all_goals exact h.event _

theorem sameRefusals_writeRecord (s : State) (r : RecordWord) (a : Access) : s.SameRefusals (s.writeRecord r a) := by
  have turned : s.SameRefusals { s.turnSlot r with port := .passed a } :=
    ((State.SameRefusals.refl s).collected ((State.Collects.refl s).turnSlot r)).port _
  unfold State.writeRecord
  dsimp only
  split
  · refine State.SameRefusals.event ?_ _
    split
    · exact turned
    · exact turned.collected ((State.Collects.refl _).setLatch r _)
  split
  · exact turned.collected ((State.Collects.refl _).setLatch r _)
  split
  · exact (turned.takeRecord r _).collected ((State.Collects.refl _).clearMarks r)
  · exact (turned.collected ((State.Collects.refl _).clearMarks r)).event _

theorem sameRefusals_passWrite (s : State) (v word : Nat) (a : Access) : s.SameRefusals (s.passWrite v word a) := by
  unfold State.passWrite
  dsimp only
  split
  · refine State.SameRefusals.event ?_ _; exact ⟨rfl, rfl⟩
  · exact ⟨rfl, rfl⟩

theorem sameRefusals_readCommand (s : State) (v word : Nat) (a : Access) : s.SameRefusals (s.readCommand v word a) := by
  unfold State.readCommand
  dsimp only
  split
  · exact ⟨rfl, rfl⟩
  split
  · refine State.SameRefusals.event ?_ _; exact ⟨rfl, rfl⟩
  · exact ⟨rfl, rfl⟩

theorem sameRefusals_readReport (s : State) (off : Nat) (a : Access) : s.SameRefusals (s.readReport off a) := by
  unfold State.readReport
  dsimp only
  split
  · refine State.SameRefusals.event ?_ _; exact ⟨rfl, rfl⟩
  · exact ⟨rfl, rfl⟩

/-! ### The bounds -/

/-- The list holds eight entries at most, the count stops at 65535, and until then the list is no longer than the count. -/
structure State.RefusalsBounded (s : State) : Prop where
  list : s.refusals.length ≤ 8
  count : s.refusalCount ≤ 65535
  counted : s.refusalCount < 65535 → s.refusals.length ≤ s.refusalCount

theorem State.RefusalsBounded.same {s t : State} (h : s.RefusalsBounded) (same : s.SameRefusals t) : t.RefusalsBounded := by
  obtain ⟨list, count⟩ := same
  exact ⟨list ▸ h.list, count ▸ h.count, by rw [list, count]; exact h.counted⟩

/-- A list of eight entries at most, with an entry put at its end and the oldest of eight gone: it stays within eight, and grows by
one entry at most. -/
theorem length_listed (l : List Refused) (h : l.length ≤ 8) (x : Refused) :
    ((if Config.maxRefusals ≤ l.length then l.drop 1 else l) ++ [x]).length ≤ min (l.length + 1) 8 := by
  unfold Config.maxRefusals
  split <;> simp <;> omega

/-- A suppressed write counts; one of word 3 puts an entry at the end of the list, and the oldest of eight leaves. -/
theorem State.RefusalsBounded.refuseWrite {s : State} (h : s.RefusalsBounded) (v word : Nat) (a : Access) :
    (s.refuseWrite v word a).RefusalsBounded := by
  obtain ⟨list, count, counted⟩ := h
  have counts : satInc s.refusalCount ≤ 65535 := Nat.min_le_right ..
  have below : satInc s.refusalCount < 65535 → satInc s.refusalCount = s.refusalCount + 1 := by
    unfold satInc Config.countLimit; omega
  unfold State.refuseWrite
  dsimp only
  split
  · exact ⟨list, counts, fun h => by have := below h; dsimp only; omega⟩
  · have listed := length_listed s.refusals list
      ⟨v, a.data &&& enableMask a.enables, (s.net.valve v).holders, (s.net.valve v).control, s.time⟩
    refine State.RefusalsBounded.same ⟨?_, ?_, fun h => ?_⟩ (State.SameRefusals.event (.refl _) _)
    · dsimp only; omega
    · exact counts
    · have := below h; dsimp only; omega

theorem State.RefusalsBounded.takePlace {s : State} (h : s.RefusalsBounded) (p : Place) (a : Access) :
    (s.takePlace p a).RefusalsBounded := by
  have passed : State.RefusalsBounded { s with port := .passed a } := h.same ⟨rfl, rfl⟩
  unfold State.takePlace
  split
  · exact passed
  cases p with
  | record r =>
    dsimp only; split
    · exact h.same (sameRefusals_writeRecord s r a)
    · exact passed
  | command v word =>
    dsimp only; split
    · unfold State.writeCommand
      split
      · exact h.refuseWrite v word a
      · exact h.same (sameRefusals_passWrite s v word a)
    · exact h.same (sameRefusals_readCommand s v word a)
  | report off =>
    dsimp only; split
    · exact passed
    · exact h.same (sameRefusals_readReport s off a)
  | outside => exact passed

theorem refusalsBounded_deviceReset (s : State) (asserted : Bool) (anch : BitVec 8) (linkid : Master) :
    (s.deviceReset asserted anch linkid).RefusalsBounded := ⟨Nat.zero_le _, Nat.zero_le _, fun _ => Nat.le_refl _⟩

/-- Every command keeps the bounds. -/
theorem State.RefusalsBounded.exec {s t : State} (h : s.RefusalsBounded) {c : Instr} (run : exec c s = .next t) :
    t.RefusalsBounded := by
  rcases exec_cases c s with ⟨a, _, run'⟩ | ⟨_, f, run'⟩ | rfl | ⟨a, l, rfl⟩ | rfl
  · cases run'.symm.trans run; exact h.takePlace _ a
  · cases run'.symm.trans run; exact h.same ((State.SameRefusals.refl s).occur f)
  · cases run; exact refusalsBounded_deviceReset ..
  · cases run; exact refusalsBounded_deviceReset ..
  · cases run
    split
    · exact h
    · exact h.same (sameRefusals_expireAll s).tick

/-- Settles O58: the bounds are kept by idling and by every command. -/
theorem refusalListStaysWithinEight : Obligations.RefusalListStaysWithinEight := by
  intro s t list count counted run
  have bounded : s.RefusalsBounded := ⟨list, count, counted⟩
  have kept : t.RefusalsBounded := by
    unfold step at run
    split at run
    · cases run; exact bounded
    · next c rest _ =>
      have waiting : State.RefusalsBounded { s with pending := rest } := bounded.same ⟨rfl, rfl⟩
      exact waiting.exec run
  exact ⟨kept.list, kept.count, kept.counted⟩

end Sys2Proof.Machine
end

section
/-! SUPPORT. The report pages: the values of the fields and the words of each page (R28, R187 to R189, R191, R194 to R197). -/

namespace Sys2Proof.Machine

/-! ### The values of fields (R191, R195, R197) -/

/-- The code of every named value fits the field in which the pages show it. -/
theorem codes_fit :
    (∀ x : Tag, x.code % 2 ^ 2 = x.code) ∧ (∀ x : ImageState, x.code % 2 ^ 2 = x.code) ∧
    (∀ x : IncidentState, x.code % 2 ^ 3 = x.code) ∧ (∀ x : SensorState, x.code % 2 ^ 3 = x.code) ∧
    (∀ x : CellState, x.code % 2 ^ 3 = x.code) ∧ (∀ x : Motion, x.code % 2 ^ 3 = x.code) ∧
    (∀ x : Purpose, x.code % 2 ^ 3 = x.code) ∧ (∀ x : Source, x.code % 2 ^ 2 = x.code) ∧
    (∀ x : Control, x.code % 2 ^ 2 = x.code) ∧ (∀ x : Health, x.code % 2 ^ 2 = x.code) ∧
    (∀ x : FaultReason, x.code % 2 ^ 3 = x.code) ∧ (∀ x : AbortCause, x.code % 2 ^ 3 = x.code) ∧
    (∀ x : SensorKind, x.code % 2 ^ 1 = x.code) ∧ (∀ x : Format, x.code % 2 ^ 1 = x.code) ∧
    (∀ x : NormalState, x.code % 2 ^ 1 = x.code) ∧ (∀ x : Policy, x.code % 2 ^ 1 = x.code) ∧
    (∀ x : Phase, x.code % 2 ^ 1 = x.code) ∧ (∀ x : HoldReason, x.code % 2 ^ 2 = x.code) ∧
    (∀ x : Marker, x.code % 2 ^ 2 = x.code) ∧ (∀ x : FailReason, x.code % 2 ^ 3 = x.code) ∧
    (∀ x : Job, x.code % 2 ^ 3 = x.code) ∧ (∀ x : LocationOutcome, x.code % 2 ^ 2 = x.code) ∧
    (∀ x : ControlOutcome, x.code % 2 ^ 8 = x.code) ∧ (∀ x : AdoptionOutcome, x.code % 2 ^ 2 = x.code) ∧
    (∀ x : AdoptionTable, x.code % 2 ^ 3 = x.code) ∧ (∀ x : AdoptionReason, x.code % 2 ^ 5 = x.code) := by
  repeat' apply And.intro
  all_goals (intro x; cases x <;> rfl)

/-- A flag shows as one bit. -/
theorem bit_fits (b : Bool) : bit b % 2 ^ 1 = b.toNat := by cases b <;> rfl

/-- A timer shows its expiry, 0 while it is stopped. -/
theorem timerField_eq (t : Option Time) : timerField t = (t.map BitVec.toNat).getD 0 := by cases t <;> rfl

/-- A signed value shows in two's complement. -/
theorem twos_fits (width : Nat) (v : Int) : twos width v % 2 ^ width = (BitVec.ofInt width v).toNat := by
  have h : (BitVec.ofInt width v).toNat = twos width v := by rw [BitVec.toNat_ofInt]; unfold twos; norm_cast
  rw [← h, BitVec.toNat_mod_cancel]

/-- A page word whose entry on its page is packed from fields that fit. -/
theorem shows_word {w v : Word} {fs gs : List (Nat × Nat)} (at_page : w = v) (packed : v = pack fs)
    (fits : Nat.ble (fs.map Prod.fst).sum 32 = true) (fields : fs.map (fun f => (f.1, f.2 % 2 ^ f.1)) = gs) : Shows w gs := by
  rw [at_page, packed]; exact shows_packed fits fields

/-- Beyond its words a page reads 0. -/
theorem getD_beyond {l : List Word} {k : Nat} (h : l.length ≤ k) : l.getD k 0 = 0 := by
  rw [List.getD_eq_getElem?_getD, List.getElem?_eq_none h]; rfl

/-! ### How a field shows its value (R191) -/

/-- A value cut to the width of its field. -/
def showCut (width v : Nat) : Nat × Nat := (width, v % 2 ^ width)

def showFlag (b : Bool) : Nat × Nat := (1, b.toNat)

/-- An id, 0xFFFF while absent. -/
def showId (v : Option Nat) : Nat × Nat := showCut 16 (v.getD 0xFFFF)

/-- An expiry time, 0 while the timer is stopped. -/
def showTimer (width : Nat) (t : Option Time) : Nat × Nat := showCut width ((t.map BitVec.toNat).getD 0)

def showSigned (width : Nat) (v : Int) : Nat × Nat := (width, (BitVec.ofInt width v).toNat)

/-- Two ids of a list, 0 beyond it. -/
def showPair (l : List Nat) (j : Nat) : List (Nat × Nat) := [showCut 16 (l.getD (2 * j) 0), showCut 16 (l.getD (2 * j + 1) 0)]

theorem pairWords_shows {count j : Nat} (ids : List Nat) (h : j < count) : Shows ((pairWords count ids).getD j 0) (showPair ids j) :=
  shows_word (pairWords_getD ids h) rfl rfl rfl

/-! ### The summary page (R187) -/

/-- The window, the reason and the master of the last error fit their fields, and read 0 while absent (log 20). -/
theorem lastError_fits : (∀ x : Option Window, (x.map Window.code).getD 0 % 2 ^ 2 = (x.map Window.code).getD 0) ∧
    (∀ x : Option RecordReason, (x.map RecordReason.code).getD 0 % 2 ^ 4 = (x.map RecordReason.code).getD 0) ∧
    ∀ x : Option Master, (x.map BitVec.toNat).getD 0 % 2 ^ 2 = (x.map BitVec.toNat).getD 0 := by
  refine ⟨fun x => ?_, fun x => ?_, fun x => ?_⟩
  · rcases x with _ | x
    · rfl
    · cases x <;> rfl
  · rcases x with _ | x
    · rfl
    · cases x <;> rfl
  · rcases x with _ | x
    · rfl
    · exact BitVec.toNat_mod_cancel x

/-- The kind and the incident of the running job, none while the walker is idle (R197). -/
def showRunning (w : Option Running) : List (Nat × Nat) :=
  match w with
  | some r => [(3, r.job.code), showCut 4 (r.job.incident.getD 15)]
  | none => [(3, 0), (4, 15)]

theorem runningFields_shows (w : Option Running) : (runningFields w).map (fun f => (f.1, f.2 % 2 ^ f.1)) = showRunning w := by
  cases w with
  | none => rfl
  | some r => obtain ⟨job, abandoned⟩ := r; cases job <;> rfl

/-- The three words of an adoption result (R16). -/
theorem adoptionWords_shows {r : AdoptionResult} {w : Nat → Word} {k : Nat}
    (words : ∀ {j}, j < 3 → w (k + j) = (adoptionWords r).getD j 0) :
    Shows (w k) [(2, r.outcome.code), (5, r.reason.code), (3, r.table.code)] ∧ Shows (w (k + 1)) [showId r.id, showId r.second] ∧
    w (k + 2) = r.time := by
  refine ⟨shows_word (words (j := 0) (by decide)) rfl rfl ?_, shows_word (words (by decide)) rfl rfl rfl, words (by decide)⟩
  simp only [List.map, codes_fit]

section

variable {s : State} {w : Nat → Word} (page : ∀ {k}, k < 128 → w k = (summaryPage s).getD k 0)
include page

theorem summary_results :
    let result := fun (k : Nat) (r : AdoptionResult) =>
      Shows (w k) [(2, r.outcome.code), (5, r.reason.code), (3, r.table.code)] ∧
      Shows (w (k + 1)) [showId r.id, showId r.second] ∧ w (k + 2) = r.time
    result 5 s.net.topologyResult ∧ result 8 s.net.sensorsResult ∧ result 11 s.net.crossResult := by
  refine ⟨adoptionWords_shows fun h => ?_, adoptionWords_shows fun h => ?_, adoptionWords_shows fun h => ?_⟩
  all_goals rw [page (by omega)]
  · exact (summaryPage_result s h).1
  · exact (summaryPage_result s h).2.1
  · exact (summaryPage_result s h).2.2

/-- The state of the image, the time and the parameters in force. -/
theorem summary_image :
    let p := s.net.params
    Shows (w 0) [(2, s.net.imageState.code), showFlag s.net.topologyAdopted, showFlag s.net.sensorsAdopted,
      (2, s.net.topologyMarker.code), (2, s.net.sensorsMarker.code), (2, s.net.globals.tag.code)] ∧
    w 1 = s.time ∧
    Shows (w 2) [showCut 8 p.closedTolerance, showCut 8 p.openTolerance, showCut 8 p.progressStep,
      showCut 8 p.reverseTolerance] ∧
    Shows (w 3) [showCut 16 p.progressWindow, showCut 16 p.pickupTimeout] ∧
    Shows (w 4) [showCut 16 p.breachMargin, showCut 16 p.deadlineMargin] := by
  refine ⟨shows_word (page (by decide)) rfl rfl ?_, page (by decide), shows_word (page (by decide)) rfl rfl rfl,
    shows_word (page (by decide)) rfl rfl rfl, shows_word (page (by decide)) rfl rfl rfl⟩
  simp only [List.map, codes_fit, bit_fits]
  rfl

/-- The control result, the attention word and the error counts. -/
theorem summary_control :
    let c := s.controlResult
    let n := s.net
    Shows (w 14) [(16, c.sequence.toNat), (8, c.kind.toNat), (8, c.outcome.code)] ∧ w 15 = c.detail ∧ w 16 = c.time ∧
    Shows (w 17) [showCut 8 n.attention.vector, (23, 0), showFlag n.attention.valid] ∧
    Shows (w 18) [showCut 16 n.recordErrors, showCut 16 n.dropped] := by
  refine ⟨shows_word (page (by decide)) rfl rfl ?_, page (by decide), page (by decide), shows_word (page (by decide)) rfl rfl ?_,
    shows_word (page (by decide)) rfl rfl rfl⟩
  · simp only [List.map, codes_fit, BitVec.toNat_mod_cancel]
  · simp only [List.map, bit_fits]; rfl

theorem summary_lastError :
    let l := s.net.lastError
    Shows (w 19) [(2, (l.window.map Window.code).getD 0), (4, (l.reason.map RecordReason.code).getD 0),
      (2, (l.master.map BitVec.toNat).getD 0), showCut 4 (l.kind.getD 0), showCut 3 (l.word.getD 0), showFlag l.slot.isSome,
      showFlag l.word.isSome, showFlag l.master.isSome, showFlag l.kind.isSome, showFlag l.id.isSome] ∧
    Shows (w 20) [showId l.slot, showId l.id] ∧ w 21 = l.time := by
  refine ⟨shows_word (page (by decide)) rfl rfl ?_, shows_word (page (by decide)) rfl rfl rfl, page (by decide)⟩
  simp only [List.map, lastError_fits, bit_fits]
  rfl

/-- The job queue, the walker, the stroke queue, the slots and the straps. -/
theorem summary_work :
    let n := s.net
    let large := n.slots.countP fun v => decide (6 ≤ (n.valve v).diameter)
    Shows (w 22) (showCut 4 n.jobs.length :: showRunning n.walker) ∧
    Shows (w 23) [showCut 16 n.jobsCompleted, showCut 16 n.jobsStale] ∧ Shows (w 24) [showCut 16 n.jobsAbandoned] ∧
    Shows (w 25) [showCut 12 n.queue.close.length, showCut 12 n.queue.openUp.length] ∧
    Shows (w 26) [showCut 12 n.queue.test.length, showCut 4 n.slots.length, showCut 2 large, showCut 12 n.passedOver] ∧
    Shows (w 27) [(8, s.anch.toNat), (2, s.linkid.toNat)] := by
  refine ⟨shows_word (page (by decide)) rfl ?_ ?_, shows_word (page (by decide)) rfl rfl rfl,
    shows_word (page (by decide)) rfl rfl rfl, shows_word (page (by decide)) rfl rfl rfl,
    shows_word (page (by decide)) rfl rfl rfl, shows_word (page (by decide)) rfl rfl ?_⟩
  · rcases s.net.walker with _ | ⟨job, _⟩ <;> rfl
  · rw [List.map_cons, runningFields_shows]; rfl
  · simp only [List.map, BitVec.toNat_mod_cancel]

/-- The four words of a cause (R180). -/
theorem summary_cause {k : Nat} (hk : k < 16) :
    Shows (w (28 + 4 * k)) [showFlag (s.net.cause k).flag, showCut 2 (s.net.cause k).level, showCut 8 (s.net.cause k).vector,
      showCut 16 (s.net.cause k).count] ∧
    w (29 + 4 * k) = (s.net.cause k).time ∧ w (30 + 4 * k) = (s.net.cause k).subject ∧
    w (31 + 4 * k) = (s.net.cause k).detail := by
  have word : ∀ {j i}, j < 4 → i = 28 + 4 * k + j → w i = (causeWords (s.net.cause k)).getD j 0 := fun hj hi => by
    rw [hi, page (by omega), summaryPage_cause s hk hj]
  refine ⟨shows_word (word (j := 0) (by decide) rfl) rfl rfl ?_, word (j := 1) (by decide) (by omega),
    word (j := 2) (by decide) (by omega), word (j := 3) (by decide) (by omega)⟩
  simp only [List.map, bit_fits]
  rfl

/-- The words beyond the causes read 0. -/
theorem summary_beyond {k : Nat} (h : 92 ≤ k) (hk : k < 128) : w k = 0 := by
  have length : (summaryPage s).length = 92 := rfl
  rw [page hk, getD_beyond (by omega)]

end

/-! ### The refusal list (R189) -/

section

variable {s : State} {w : Nat → Word} (page : ∀ {k}, k < 48 → w k = (refusalPage s).getD k 0)
include page

theorem refusal_count : Shows (w 0) [showCut 16 s.refusalCount, showCut 4 s.refusals.length] :=
  shows_word (page (by decide)) rfl rfl rfl

/-- The four words of an entry of the refusal list. -/
theorem refusal_entry {k : Nat} (hk : k < 8) {r : Refused} (h : s.refusals[k]? = some r) :
    Shows (w (1 + 4 * k)) [showCut 16 r.valve, showCut 8 (setField r.holders), (2, r.control.code)] ∧
    w (2 + 4 * k) = r.word ∧ w (3 + 4 * k) = r.time ∧ w (4 + 4 * k) = 0 := by
  have word : ∀ {j i}, j < 4 → i = 1 + 4 * k + j → w i = (refusalWords r).getD j 0 := fun hj hi => by
    rw [hi, page (by omega), refusalPage_entry h hj]
  refine ⟨shows_word (word (j := 0) (by decide) rfl) rfl rfl ?_, word (j := 1) (by decide) (by omega),
    word (j := 2) (by decide) (by omega), word (j := 3) (by decide) (by omega)⟩
  simp only [List.map, codes_fit]
  rfl

/-- A position beyond the last entry reads 0 (log 20). -/
theorem refusal_none {k : Nat} (hk : k < 8) (h : s.refusals[k]? = none) :
    w (1 + 4 * k) = 0 ∧ w (2 + 4 * k) = 0 ∧ w (3 + 4 * k) = 0 ∧ w (4 + 4 * k) = 0 := by
  have word : ∀ {j i}, j < 4 → i = 4 * k + j + 1 → w i = 0 := fun hj hi => by
    rw [hi, page (by omega)]
    exact getD_flatMap_none (m := 4) (f := refusalWords) (fun _ => rfl) h _
  exact ⟨word (j := 0) (by decide) (by omega), word (j := 1) (by decide) (by omega), word (j := 2) (by decide) (by omega),
    word (j := 3) (by decide) (by omega)⟩

/-- The words beyond eight entries read 0 (R194). -/
theorem refusal_beyond (h : s.refusals.length ≤ 8) {k : Nat} (hk : 33 ≤ k) (hk' : k < 48) : w k = 0 := by
  have length : (refusalPage s).length = 4 * s.refusals.length + 1 := by
    unfold refusalPage
    rw [List.length_cons, List.length_flatMap]
    show (s.refusals.map fun _ => 4).sum + 1 = _
    rw [List.map_const', List.sum_replicate_nat, Nat.mul_comm]
  rw [page hk', getD_beyond (by omega)]

end

/-! ### Incident pages (R188) -/

theorem boundaryField_eq : boundaryField = fun b => b.valve % 2 ^ 11 + 2 ^ 15 * b.failed.toNat := by
  funext ⟨v, failed⟩; cases failed <;> rfl

section

variable {s : State} {i : Nat} {w : Nat → Word} (page : ∀ {k}, k < 80 → w k = (incidentPage s i).getD k 0)
include page

theorem incident_record :
    let r := s.net.incident i
    Shows (w 0) [(3, r.state.code), (1, r.policy.code), (2, r.holdReason.code), (3, r.failReason.code), (2, r.marker.code),
      showCut 2 r.depth, showCut 4 (r.mergedInto.getD 15), showCut 3 r.origins.length, showCut 4 r.pendingCauses.length,
      showCut 8 r.cutCount] ∧
    Shows (w 1) [(16, r.generation.toNat), showCut 16 r.unlisted] ∧
    Shows (w 2) [showCut 13 r.holdExpiry, showCut 7 r.reopen, showFlag r.timeIsolated.isSome] ∧
    Shows (w 3) [showCut 7 r.tally.opened, showCut 7 r.tally.faulted, showCut 7 r.tally.reclaimed, showCut 10 r.note.ratio] ∧
    Shows (w 4) [showId r.note.winner, showCut 16 r.note.skips] ∧
    w 5 = r.holdTimer.getD 0 ∧ w 6 = r.timeOpened ∧ w 7 = r.timeIsolated.getD 0 := by
  refine ⟨shows_word (page (by decide)) rfl rfl ?_, shows_word (page (by decide)) rfl rfl ?_,
    shows_word (page (by decide)) rfl rfl ?_, shows_word (page (by decide)) rfl rfl rfl,
    shows_word (page (by decide)) rfl rfl rfl, page (by decide), page (by decide), page (by decide)⟩
  · simp only [List.map, codes_fit]; rfl
  · simp only [List.map, BitVec.toNat_mod_cancel]; rfl
  · simp only [List.map, bit_fits]; rfl

/-- The two words of an origin; beyond the last they read 0 (log 20). -/
theorem incident_origin {k : Nat} (hk : k < 4) :
    (∀ o, (s.net.incident i).origins[k]? = some o →
      Shows (w (8 + 2 * k)) [showCut 16 o.node, showCut 8 (o.cell.getD 255)] ∧ w (9 + 2 * k) = o.time) ∧
    ((s.net.incident i).origins[k]? = none → w (8 + 2 * k) = 0 ∧ w (9 + 2 * k) = 0) := by
  have word : ∀ {j m}, j < 2 → m = 8 + (2 * k + j) → w m = ((s.net.incident i).origins.flatMap originWords).getD (2 * k + j) 0 :=
    fun hj hm => by rw [hm, page (by omega), incidentPage_origins s i (by omega)]
  have first := word (j := 0) (by decide) rfl
  have second := word (j := 1) (m := 9 + 2 * k) (by decide) (by omega)
  refine ⟨fun o h => ?_, fun h => ?_⟩
  · rw [getD_flatMap (m := 2) (f := originWords) (fun _ => rfl) h (by decide)] at first second
    exact ⟨shows_word first rfl rfl rfl, second⟩
  · rw [getD_flatMap_none (m := 2) (f := originWords) (fun _ => rfl) h] at first second
    exact ⟨first, second⟩

/-- The pending causes and the cut list, two ids to a word. -/
theorem incident_lists : (∀ j, j < 4 → Shows (w (16 + j)) (showPair (s.net.incident i).pendingCauses j)) ∧
    ∀ j, j < 2 → Shows (w (20 + j)) (showPair (s.net.incident i).cutList j) := by
  refine ⟨fun j hj => ?_, fun j hj => ?_⟩
  · rw [page (by omega), incidentPage_causes s i hj]; exact pairWords_shows _ hj
  · rw [page (by omega), incidentPage_cut s i hj]; exact pairWords_shows _ hj

/-- The fourteen words of a frame; beyond the last they read 0 (log 20). -/
theorem incident_frame {k : Nat} (hk : k < 4) :
    (∀ f, (s.net.incident i).frames[k]? = some f →
      Shows (w (22 + 14 * k)) [showFlag f.checked, showCut 3 f.causes.length, showCut 3 f.seeds.length,
        showCut 5 f.boundary.length] ∧
      (∀ j, j < 2 → Shows (w (23 + 14 * k + j)) (showPair f.causes j)) ∧
      (∀ j, j < 2 → Shows (w (25 + 14 * k + j)) (showPair f.seeds j)) ∧
      (∀ j, j < 8 → Shows (w (27 + 14 * k + j))
        (showPair (f.boundary.map fun b => b.valve % 2 ^ 11 + 2 ^ 15 * b.failed.toNat) j)) ∧
      Shows (w (35 + 14 * k)) [showCut 16 f.regionNodes, showCut 16 f.regionPipes]) ∧
    ((s.net.incident i).frames[k]? = none → ∀ j, j < 14 → w (22 + 14 * k + j) = 0) := by
  have word : ∀ {j m}, j < 14 → m = 22 + (14 * k + j) → w m = ((s.net.incident i).frames.flatMap frameWords).getD (14 * k + j) 0 :=
    fun hj hm => by rw [hm, page (by omega), incidentPage_frames, if_pos (by omega)]
  refine ⟨fun f h => ?_, fun h j hj => ?_⟩
  · have entry : ∀ {j m}, j < 14 → m = 22 + (14 * k + j) → w m = (frameWords f).getD j 0 := fun hj hm => by
      rw [word hj hm, getD_flatMap (m := 14) (f := frameWords) (fun _ => rfl) h hj]
    refine ⟨shows_word (entry (j := 0) (by decide) rfl) rfl rfl ?_, fun j hj => ?_, fun j hj => ?_, fun j hj => ?_,
      shows_word (entry (j := 13) (by decide) (by omega)) rfl rfl rfl⟩
    · simp only [List.map, bit_fits]; rfl
    · rw [entry (j := 1 + j) (by omega) (by omega), frameWords_causes f hj]; exact pairWords_shows _ hj
    · rw [entry (j := 3 + j) (by omega) (by omega), frameWords_seeds f hj]; exact pairWords_shows _ hj
    · rw [entry (j := 5 + j) (by omega) (by omega), frameWords_boundary f hj, boundaryField_eq]; exact pairWords_shows _ hj
  · rw [word hj (by omega), getD_flatMap_none (m := 14) (f := frameWords) (fun _ => rfl) h]

/-- The two words after the frames read 0 (R194). -/
theorem incident_beyond : w 78 = 0 ∧ w 79 = 0 :=
  ⟨(page (by decide)).trans (incidentPage_frames s i 56), (page (by decide)).trans (incidentPage_frames s i 57)⟩

end

/-! ### Cell pages (R189) -/

theorem meterField_eq : meterField = fun m => m.sensor % 2 ^ 10 + 2 ^ 15 * m.outward.toNat := by
  funext ⟨k, outward⟩; cases outward <;> rfl

/-- A word of 32 bits in two's complement. -/
theorem pack_twos (v : Int) : pack [(32, twos 32 v)] = BitVec.ofInt 32 v := by
  rw [pack, packFrom, packFrom, twos_fits, Nat.shiftLeft_zero, Nat.add_zero, BitVec.ofNat_toNat, BitVec.setWidth_eq]

section

variable {s : State} {k : Nat} {w : Nat → Word} (page : ∀ {j}, j < 16 → w j = (cellPage s k).getD j 0)
include page

theorem cell_record :
    let c := s.net.cell k
    Shows (w 0) [(2, c.tag.code), (3, c.state.code), (1, c.policy.code), showFlag c.known, showCut 4 c.required,
      showCut 5 c.score, showCut 4 c.meters.length, showCut 10 c.persistence] ∧
    Shows (w 1) [showCut 16 c.threshold, showCut 13 c.holdExpiry] ∧ Shows (w 2) [showCut 16 c.centre, showTimer 10 c.persist] ∧
    w 3 = BitVec.ofInt 32 c.demand ∧ w 4 = BitVec.ofInt 32 c.imbalance := by
  refine ⟨shows_word (page (by decide)) rfl rfl ?_, shows_word (page (by decide)) rfl rfl rfl,
    shows_word (page (by decide)) rfl rfl ?_, (page (by decide)).trans (pack_twos _), (page (by decide)).trans (pack_twos _)⟩
  · simp only [List.map, codes_fit, bit_fits]; rfl
  · simp only [List.map, timerField_eq]; rfl

/-- The last location, and what an absent one shows (log 20). -/
theorem cell_location :
    let c := s.net.cell k
    (∀ x, c.location = some x →
      Shows (w 5) [showCut 16 c.absorbed, (2, x.outcome.code), showCut 4 (x.incident.getD 15), showCut 10 x.ratio] ∧ w 6 = x.time ∧
      Shows (w 7) [showCut 16 x.origin, showId x.winner] ∧ Shows (w 8) [showCut 16 x.zeroBaseline, showCut 16 x.ratioRange]) ∧
    (c.location = none →
      Shows (w 5) [showCut 16 c.absorbed, (2, 0), (4, 15), (10, 0)] ∧ w 6 = 0 ∧ Shows (w 7) [(16, 0xFFFF), (16, 0xFFFF)] ∧
      w 8 = 0) := by
  have word : ∀ {j}, j < 4 → w (5 + j) = (locationWords (s.net.cell k).absorbed (s.net.cell k).location).getD j 0 := fun hj => by
    rw [page (by omega), cellPage_location s k hj]
  have w5 := word (j := 0) (by decide)
  have w6 := word (j := 1) (by decide)
  have w7 := word (j := 2) (by decide)
  have w8 := word (j := 3) (by decide)
  refine ⟨fun x h => ?_, fun h => ?_⟩
  · rw [h] at w5 w6 w7 w8
    refine ⟨shows_word w5 rfl rfl ?_, w6, shows_word w7 rfl rfl rfl, shows_word w8 rfl rfl rfl⟩
    simp only [List.map, codes_fit]
    rfl
  · rw [h] at w5 w6 w7 w8
    exact ⟨shows_word w5 rfl rfl rfl, w6, shows_word w7 rfl rfl rfl, w8⟩

/-- The meters, two to a word, and the last word of the page. -/
theorem cell_meters :
    (∀ j, j < 6 → Shows (w (9 + j))
      (showPair ((s.net.cell k).meters.map fun m => m.sensor % 2 ^ 10 + 2 ^ 15 * m.outward.toNat) j)) ∧ w 15 = 0 := by
  refine ⟨fun j hj => ?_, (page (by decide)).trans (cellPage_meters s k 6)⟩
  rw [page (by omega), cellPage_meters s k, meterField_eq]
  exact pairWords_shows _ hj

end

/-! ### Sensor pages (R189) -/

theorem sensor_shows {s : State} {k : Nat} {w : Nat → Word} (page : ∀ {j}, j < 10 → w j = (sensorPage s k).getD j 0) :
    let x := s.net.sensor k
    Shows (w 0) [(2, x.tag.code), (1, x.kind.code), (1, x.format.code), (3, x.state.code), showFlag x.seeded,
      showFlag (masked s.net x), showFlag x.latch, showFlag x.lastSequence.isSome, showFlag x.lastGood.isSome, showCut 6 x.cell,
      showCut 4 x.shift, showCut 7 x.learningCount] ∧
    Shows (w 1) [showCut 13 x.site, showCut 15 x.threshold] ∧
    Shows (w 2) [showCut 10 x.persistence, showCut 12 x.lossTimeout, showCut 7 x.remaining] ∧
    Shows (w 3) [showSigned 24 x.baseline] ∧
    Shows (w 4) [showSigned 16 (x.baseline.tdiv 256), showSigned 16 (x.lastGood.getD 0)] ∧
    Shows (w 5) [(16, (x.lastSequence.getD 0).toNat), showTimer 12 x.loss] ∧
    Shows (w 6) [showSigned 17 x.lastDeviation, showTimer 10 x.persist] ∧ Shows (w 7) [showCut 16 x.good, showCut 16 x.doubtful] ∧
    Shows (w 8) [showCut 16 x.bad, showCut 16 x.badDigit] ∧ Shows (w 9) [showCut 16 x.repeats] := by
  refine ⟨shows_word (page (by decide)) rfl rfl ?_, shows_word (page (by decide)) rfl rfl rfl,
    shows_word (page (by decide)) rfl rfl rfl, shows_word (page (by decide)) rfl rfl ?_, shows_word (page (by decide)) rfl rfl ?_,
    shows_word (page (by decide)) rfl rfl ?_, shows_word (page (by decide)) rfl rfl ?_, shows_word (page (by decide)) rfl rfl rfl,
    shows_word (page (by decide)) rfl rfl rfl, shows_word (page (by decide)) rfl rfl rfl⟩
  · simp only [List.map, codes_fit, bit_fits]; rfl
  · simp only [List.map, twos_fits]; rfl
  · simp only [List.map, twos_fits]; rfl
  · simp only [List.map, timerField_eq, BitVec.toNat_mod_cancel]; rfl
  · simp only [List.map, timerField_eq, twos_fits]; rfl

/-! ### Valve pages (R188) -/

/-- The ending of a test and its detail (R196). -/
def TestRecord.shown (x : TestRecord) : Nat × Nat :=
  let inBack := if x.leg = .testBack then 1 else 0
  match x.result with
  | .none => (0, 0)
  | .good => (1, 0)
  | .seized => (2 + inBack, x.fault.code)
  | .link => (4 + inBack, x.fault.code)
  | .aborted => (6 + inBack, x.abort.code)

theorem shown_fits (x : TestRecord) : testEnding x.result x.leg % 2 ^ 3 = x.shown.1 ∧ testDetail x % 2 ^ 3 = x.shown.2 := by
  unfold testEnding testDetail TestRecord.shown
  cases x.result
  case none => exact ⟨rfl, rfl⟩
  case good => exact ⟨rfl, rfl⟩
  all_goals
    refine ⟨?_, by simp only [codes_fit]⟩
    split <;> rfl

theorem valve_shows {s : State} {v : Nat} {w : Nat → Word} (page : ∀ {j}, j < 10 → w j = (valvePage s v).getD j 0) :
    let x := s.net.valve v
    let p := s.net.params
    let r := x.report.getD Report.absent
    let m := x.image.getD Image.absent
    Shows (w 0) [(16, x.imageSeq.toNat), (16, r.sequence.toNat)] ∧
    Shows (w 1) [showCut 16 x.repeats, showCut 8 (setField x.holders), showCut 4 (x.releaseOwner.getD 15),
      showCut 4 (x.divisor - 1)] ∧
    Shows (w 2) [showTimer 19 x.deadline, (2, x.tag.code), showCut 3 (x.diameter - 1), (3, x.motion.code), (3, x.purpose.code),
      (2, x.health.code)] ∧
    Shows (w 3) [showCut 12 x.endA, showCut 12 x.endB, (3, x.fault.code), (3, x.test.shown.1), (2, x.control.code)] ∧
    Shows (w 4) [showCut 12 x.strokeTime, showCut 10 m.target, showCut 10 m.rate] ∧
    Shows (w 5) [showCut 10 r.position, showTimer 10 x.pickup, showTimer 10 x.progress, (2, m.source.code)] ∧
    Shows (w 6) [showCut 10 x.reference, showCut 10 x.best, showCut 10 x.test.home, (1, x.normal.code), showFlag x.seated] ∧
    Shows (w 7) [showCut 9 x.crossover, showCut 9 x.test.depth, (3, x.test.shown.2), (1, x.phase.code),
      showFlag (x.confirmedClosed p), showFlag (x.confirmedOpen p), showFlag m.awaiting, showFlag x.image.isSome, showFlag r.torque,
      showFlag r.limitOpen, showFlag r.limitClosed] ∧
    w 8 = r.time ∧ w 9 = x.test.time := by
  refine ⟨shows_word (page (by decide)) rfl rfl ?_, shows_word (page (by decide)) rfl rfl rfl,
    shows_word (page (by decide)) rfl rfl ?_, shows_word (page (by decide)) rfl rfl ?_, shows_word (page (by decide)) rfl rfl rfl,
    shows_word (page (by decide)) rfl rfl ?_, shows_word (page (by decide)) rfl rfl ?_, shows_word (page (by decide)) rfl rfl ?_,
    page (by decide), page (by decide)⟩
  · simp only [List.map, BitVec.toNat_mod_cancel]
  · simp only [List.map, codes_fit, timerField_eq]; rfl
  · simp only [List.map, codes_fit, shown_fits]; rfl
  · simp only [List.map, codes_fit, timerField_eq]; rfl
  · simp only [List.map, codes_fit, bit_fits]; rfl
  · simp only [List.map, codes_fit, bit_fits, shown_fits]; rfl

/-! ### The report window (R28, R194) -/

/-- A read outside the lost latches is answered with the word at its offset. -/
theorem exec_reportRead {s : State} {a : Access} {off : Nat} (released : s.resetAsserted = false) (read : a.write = false)
    (place : placeOf s.anch a.addr = .report off) (latch : off < 0x20300 ∨ 0x20380 ≤ off) :
    exec (.passedAccess a) s = .next { s with port := .answered a (reportWord s off) } := by
  have none : latchWordAt off = none := if_neg (by omega)
  show Host.Outcome.next (s.takePlace (placeOf s.anch a.addr) a) = _
  rw [takePlace_released released, place, read]
  simp [State.readReport, none]

/-- The offsets between the pages and beyond them read 0. -/
theorem reportWord_gap (s : State) {off : Nat}
    (h : (0x202C0 ≤ off ∧ off < 0x20300) ∨ (0x20380 ≤ off ∧ off < 0x20400) ∨ 0x3FE00 ≤ off) : reportWord s off = 0 := by
  unfold reportWord
  rcases h with h | h | h
  · rw [if_neg (by omega), if_neg (by omega), if_pos (by omega)]
  · rw [if_neg (by omega), if_neg (by omega), if_neg (by omega), if_neg (by omega), if_pos (by omega)]
  · iterate 9 rw [if_neg (by omega)]

/-- The image state by the three flags (R21). -/
theorem imageState_eq (n : Net) : n.imageState =
    if n.live then .live else if n.topologyAdopted ∨ n.sensorsAdopted then .partially else .loading := by
  unfold Net.imageState
  simp

/-- Settles O8: the read by its place, and each page by the lemmas about its words. -/
theorem reportReadShowsTheWord : Obligations.ReportReadShowsTheWord := by
  refine ⟨fun s a off released read place latch => exec_reportRead released read place latch, fun s off h => reportWord_gap s h,
    fun l i h => setField_testBit l h, fun w lo width => congrArg (· % 2 ^ width) (Nat.shiftRight_eq_div_pow ..),
    ⟨rfl, rfl, rfl, rfl, rfl, rfl, rfl, rfl, rfl, rfl, rfl, rfl⟩,
    ⟨rfl, rfl, rfl, rfl, rfl, rfl, rfl, rfl, rfl, rfl, rfl, rfl, rfl, rfl, rfl, rfl⟩, fun _ _ _ _ => ⟨rfl, rfl⟩, fun s => ?_⟩
  refine ⟨imageState_eq _, rfl, ?_⟩
  intro cut flag id timer signed pair
  refine ⟨?_, ?_, fun h k hk hk' => refusal_beyond (reportWord_refusal s) h hk hk', fun i hi => ?_, fun k hk => ?_, fun k hk => ?_,
    fun v hv => ?_⟩
  · intro w c p l result running large
    have page : ∀ {k}, k < 128 → w k = (summaryPage s).getD k 0 := reportWord_summary s
    obtain ⟨w0, w1, w2, w3, w4⟩ := summary_image page
    obtain ⟨topology, sensors, cross⟩ := summary_results page
    obtain ⟨w14, w15, w16, w17, w18⟩ := summary_control page
    obtain ⟨w19, w20, w21⟩ := summary_lastError page
    obtain ⟨w22, w23, w24, w25, w26, w27⟩ := summary_work page
    have walker : showRunning s.net.walker = running := by
      unfold running showRunning
      cases s.net.walker <;> rfl
    exact ⟨w0, w1, w2, w3, w4, topology, sensors, cross, w14, w15, w16, w17, w18, w19, w20, w21, walker ▸ w22, w23, w24, w25, w26,
      w27, fun k hk => summary_cause page hk, fun k h hk => summary_beyond page h hk⟩
  · intro w l
    have page : ∀ {k}, k < 48 → w k = (refusalPage s).getD k 0 := reportWord_refusal s
    exact ⟨refusal_count page, fun k hk => ⟨fun r h => refusal_entry page hk h, refusal_none page hk⟩⟩
  · intro w r
    have page : ∀ {k}, k < 80 → w k = (incidentPage s i).getD k 0 := fun h => reportWord_incident s hi h
    obtain ⟨w0, w1, w2, w3, w4, w5, w6, w7⟩ := incident_record page
    obtain ⟨causes, cut⟩ := incident_lists page
    exact ⟨w0, w1, w2, w3, w4, w5, w6, w7, fun k hk => incident_origin page hk, causes, cut, fun k hk => incident_frame page hk,
      incident_beyond page⟩
  · intro w c
    have page : ∀ {j}, j < 16 → w j = (cellPage s k).getD j 0 := fun h => reportWord_cell s hk h
    obtain ⟨w0, w1, w2, w3, w4⟩ := cell_record page
    obtain ⟨located, unlocated⟩ := cell_location page
    exact ⟨w0, w1, w2, w3, w4, located, unlocated, cell_meters page⟩
  · intro w x
    have page : ∀ {j}, j < 10 → w j = (sensorPage s k).getD j 0 := fun h => reportWord_sensor s hk h
    exact sensor_shows page
  · intro w x r m inBack ending
    have page : ∀ {j}, j < 10 → w j = (valvePage s v).getD j 0 := fun h => reportWord_valve s hv h
    exact valve_shows page

end Sys2Proof.Machine
end

section
/-! SUPPORT. The imbalance of a cell, the states it takes by it, and SET_DEMAND (R63 to R66, R68, R78). -/

namespace Sys2Proof.Machine

/-! ### Cell states (R66, R68) -/

theorem Cell.above_iff (c : Cell) : c.above = true ↔ c.known = true ∧ (c.threshold : Int) < c.imbalance := by
  simp [Cell.above]

theorem Cell.belowHalf_iff (c : Cell) :
    c.belowHalf = true ↔ c.known = false ∨ c.imbalance ≤ ((c.threshold / 2 : Nat) : Int) := by
  simp [Cell.belowHalf]

section

variable {c : Cell} (now : Time)

theorem Cell.judged_quiet (h : c.state = .quiet) :
    c.judged now = if c.above then { c with state := .watch, persist := startTimer now c.persistence } else c := by
  unfold Cell.judged; rw [h]

theorem Cell.judged_watch (h : c.state = .watch) :
    c.judged now = if c.above then c else { c with state := .quiet, persist := none } := by
  unfold Cell.judged; rw [h]

theorem Cell.judged_tripped (h : c.state = .tripped) : c.judged now = if c.belowHalf then { c with state := .quiet } else c := by
  unfold Cell.judged; rw [h]

theorem Cell.judged_inert (h : c.state = .suspended ∨ c.state = .idle) : c.judged now = c := by
  unfold Cell.judged; rcases h with h | h <;> rw [h]

end

/-- Settles O23: state by state, the threshold and its half being the two tests of the rules. -/
theorem cellStatesFollowTheImbalance : Obligations.CellStatesFollowTheImbalance := by
  intro c now above low
  have yes : above → c.above = true := c.above_iff.2
  have no : ¬ above → ¬ c.above = true := mt c.above_iff.1
  refine ⟨fun hs h => ?_, fun hs h => ?_, fun hs h => ?_, fun hs h => ?_, fun hs h => ?_, fun hs h => ?_, Cell.judged_inert now⟩
  · rw [Cell.judged_quiet now hs, if_pos (yes h)]; rfl
  · rw [Cell.judged_quiet now hs, if_neg (no h)]
  · rw [Cell.judged_watch now hs, if_pos (yes h)]
  · rw [Cell.judged_watch now hs, if_neg (no h)]
  · rw [Cell.judged_tripped now hs, if_pos (c.belowHalf_iff.2 h)]
  · rw [Cell.judged_tripped now hs, if_neg (mt c.belowHalf_iff.1 h)]

/-! ### The imbalance (R63 to R65) -/

/-- A meter counts: its sensor is in a state that is judged, has a GOOD value and is not masked (R64). -/
def Net.Metered (n : Net) (m : Meter) : Prop :=
  let x := n.sensor m.sensor
  (x.state = .normal ∨ x.state = .excursion ∨ x.state = .tripped) ∧ x.lastGood ≠ none ∧ masked n x = false

/-- The last GOOD value of a meter's sensor by the meter's orientation (R64). -/
def Net.share (n : Net) (m : Meter) : Int :=
  let v := (n.sensor m.sensor).lastGood.getD 0
  if m.outward then -v else v

theorem meterValue_of_metered {n : Net} {m : Meter} (h : n.Metered m) : meterValue n m = some (n.share m) := by
  obtain ⟨state, good, clear⟩ := h
  obtain ⟨v, hv⟩ := Option.ne_none_iff_exists'.1 good
  unfold meterValue Net.share
  dsimp only
  rw [if_pos (by simpa [clear, or_assoc] using state), hv]
  rfl

theorem meterValue_unless_metered {n : Net} {m : Meter} (h : ¬ n.Metered m) : meterValue n m = none := by
  unfold meterValue
  dsimp only
  split
  · next shown =>
    have judged : ((n.sensor m.sensor).state = .normal ∨ (n.sensor m.sensor).state = .excursion ∨
        (n.sensor m.sensor).state = .tripped) ∧ masked n (n.sensor m.sensor) = false := by simpa [or_assoc] using shown
    have noGood : (n.sensor m.sensor).lastGood = none :=
      Classical.byContradiction fun good => h ⟨judged.1, good, judged.2⟩
    rw [noGood]; rfl
  · rfl

/-- The sum over meters that all count. -/
theorem meteredSum_of_metered {n : Net} {ms : List Meter} (h : ∀ m ∈ ms, n.Metered m) :
    meteredSum n ms = some (ms.map n.share).sum := by
  induction ms with
  | nil => rfl
  | cons m ms ih =>
    obtain ⟨first, rest⟩ := List.forall_mem_cons.1 h
    unfold meteredSum
    rw [meterValue_of_metered first, ih rest]
    rfl

/-- One meter that does not count leaves no sum. -/
theorem meteredSum_unless_metered {n : Net} {ms : List Meter} (h : ∃ m ∈ ms, ¬ n.Metered m) : meteredSum n ms = none := by
  obtain ⟨a, ha, uncounted⟩ := h
  induction ms with
  | nil => cases ha
  | cons m ms ih =>
    unfold meteredSum
    rcases List.mem_cons.1 ha with rfl | later
    · rw [meterValue_unless_metered uncounted]
    · rw [ih later]; cases meterValue n m <;> rfl

theorem imbalanceOf_of_metered {n : Net} {c : Cell} (nonempty : c.meters ≠ []) (h : ∀ m ∈ c.meters, n.Metered m) :
    imbalanceOf n c = some ((c.meters.map n.share).sum - c.demand) := by
  unfold imbalanceOf
  rw [if_neg (by simpa using nonempty), meteredSum_of_metered h]
  rfl

theorem imbalanceOf_unless_metered {n : Net} {c : Cell} (h : c.meters = [] ∨ ∃ m ∈ c.meters, ¬ n.Metered m) :
    imbalanceOf n c = none := by
  unfold imbalanceOf
  rcases h with empty | h
  · rw [empty]; rfl
  · rw [meteredSum_unless_metered h]
    split <;> rfl

theorem recompute_idle (e : Env) {k : Nat} {n : Net} (h : (n.cell k).state = .idle) : recompute e k n = n := if_pos h

/-- A recomputation writes the imbalance, 0 while it is not known, and the cell's state follows (R65, R66, R68). -/
theorem recompute_running (e : Env) {k : Nat} {n : Net} (h : (n.cell k).state ≠ .idle) {im : Option Int}
    (him : imbalanceOf n (n.cell k) = im) :
    recompute e k n = n.setCell k (Cell.judged { n.cell k with known := im.isSome, imbalance := im.getD 0 } e.time) := by
  subst him
  exact if_neg h

/-! ### SET_DEMAND (R78; log 39) -/

theorem requestSetDemand_taken (e : Env) {k : Nat} {v : Int} {n : Net} (hk : k < 64) (ht : (n.cell k).tag = .adopted)
    (low : -1000000 ≤ v) (high : v ≤ 1000000) : requestSetDemand e k v n = accept (changeDemand e k v n) := by
  unfold requestSetDemand
  rw [noCell_of hk ht, if_neg (by decide), if_neg (by omega)]

theorem requestSetDemand_badId (e : Env) {k : Nat} (v : Int) {n : Net} (h : 64 ≤ k ∨ (n.cell k).tag ≠ .adopted) :
    requestSetDemand e k v n = refuse n .badId := by
  unfold requestSetDemand
  rw [noCell_unless h, if_pos rfl]

theorem requestSetDemand_badArgument (e : Env) {k : Nat} {v : Int} {n : Net} (hk : k < 64) (ht : (n.cell k).tag = .adopted)
    (hv : v < -1000000 ∨ 1000000 < v) : requestSetDemand e k v n = refuse n .badArgument := by
  unfold requestSetDemand
  rw [noCell_of hk ht, if_neg (by decide), if_pos hv]

/-- Settles O27: the request judged, the sum over the meters, and the recomputation by what the sum gives. -/
theorem setDemandRequest : Obligations.SetDemandRequest := by
  refine ⟨fun s w w0 w1 w2 ready live => ?_, fun n c => ⟨imbalanceOf_of_metered, imbalanceOf_unless_metered⟩,
    fun e k n => ⟨recompute_idle e, fun running => ⟨fun v hv => recompute_running e running hv,
      fun hv => recompute_running e running hv⟩⟩⟩
  have handed : judgeControl s.env 10 w0 w1 w2 s.net = requestSetDemand s.env w0.toNat w1.toInt s.net :=
    judgeControl_handed s.env (q := .setDemand) rfl w0 w1 w2 (.inr live)
  refine ⟨fun hk ht low high => ?_, fun settled bad => ?_, fun settled hk ht bad => ?_⟩
  · exact congrArg _ (controlWrite_answer ready w 10 _ (handed.trans (requestSetDemand_taken _ hk ht low high)))
  · exact congrArg _ (controlWrite_refused ready settled w 10 _ _ (handed.trans (requestSetDemand_badId _ _ bad)))
  · exact congrArg _ (controlWrite_refused ready settled w 10 _ _ (handed.trans (requestSetDemand_badArgument _ hk ht bad)))

end Sys2Proof.Machine
end

section
/-! SUPPORT. What the Locator finds for the candidates of a cell: the winner, its ratio and the skip counts (R73, R74). -/

namespace Sys2Proof.Machine

/-! ### Candidates (R73) -/

/-- A PRESSURE sensor with an entry is masked exactly while the node of its site is owned (R59). -/
theorem masked_pressure {n : Net} {x : Sensor} (entry : x.tag ≠ .empty) (kind : x.kind = .pressure) :
    masked n x = false ↔ (n.node x.site).owner = none := by
  unfold masked
  rw [kind]
  simp [entry]

theorem mem_candidates {n : Net} (h : n.Canonical) (k j : Nat) :
    j ∈ candidates n k ↔ (n.sensor j).tag = .adopted ∧ (n.sensor j).kind = .pressure ∧ (n.sensor j).cell = k ∧
      (n.node (n.sensor j).site).owner = none ∧ ((n.sensor j).state = .excursion ∨ (n.sensor j).state = .tripped) := by
  have tested : j ∈ candidates n k ↔ (n.sensor j).tag = .adopted ∧ (n.sensor j).kind = .pressure ∧ (n.sensor j).cell = k ∧
      masked n (n.sensor j) = false ∧ ((n.sensor j).state = .excursion ∨ (n.sensor j).state = .tripped) := by
    refine (mem_idsWhere h.sensors (fun _ => rfl) j).trans ?_
    simp [Net.sensor, and_assoc]
  rw [tested]
  refine and_congr_right fun adopted => and_congr_right fun kind => and_congr_right fun _ => and_congr_left fun _ => ?_
  exact masked_pressure (by rw [adopted]; decide) kind

theorem candidates_rise {n : Net} (h : n.Canonical) (k : Nat) : (candidates n k).Pairwise (· < ·) :=
  (idsWhere_rises (tableWf_iff.1 h.sensors).1).1

/-! ### Ratios (R73) -/

section

variable {x : Sensor}

theorem finding_zeroBaseline (h : x.baseline.tdiv 256 ≤ 0) : x.finding = .zeroBaseline := if_pos h

theorem finding_ratioRange (h : 0 < x.baseline.tdiv 256)
    (range : 1000 < (x.lastDeviation * 1000).tdiv (x.baseline.tdiv 256)) : x.finding = .ratioRange :=
  (if_neg (Int.not_le.2 h)).trans (if_pos range)

theorem finding_usable (h : 0 < x.baseline.tdiv 256)
    (range : (x.lastDeviation * 1000).tdiv (x.baseline.tdiv 256) ≤ 1000) :
    x.finding = .usable ((x.lastDeviation * 1000).tdiv (x.baseline.tdiv 256)).toNat :=
  (if_neg (Int.not_le.2 h)).trans (if_neg (Int.not_lt.2 range))

end

/-! ### The findings of a run (R74) -/

/-- What a run over the candidates `l` leaves as the winner, `g` being what it finds for each: a usable one with the largest ratio,
the first among equals, or none when none is usable. -/
def IsWinner (g : Nat → Finding) (l : List Nat) : Option (Nat × Nat) → Prop
  | some (id, ratio) => id ∈ l ∧ g id = .usable ratio ∧ ∀ j ∈ l, ∀ r, g j = .usable r → r < ratio ∨ (r = ratio ∧ id ≤ j)
  | none => ∀ j ∈ l, ∀ r, g j ≠ .usable r

section

variable {g : Nat → Finding} {l : List Nat} {a : Nat}

/-- A winner stays when the next candidate is skipped. -/
theorem IsWinner.skip {w : Option (Nat × Nat)} (h : IsWinner g l w) (skipped : ∀ r, g a ≠ .usable r) :
    IsWinner g (l ++ [a]) w := by
  cases w with
  | none => exact List.forall_mem_append.2 ⟨h, by simpa using skipped⟩
  | some w =>
    obtain ⟨mem, usable, best⟩ := h
    refine ⟨List.mem_append_left _ mem, usable, List.forall_mem_append.2 ⟨best, ?_⟩⟩
    simpa using fun r hr => absurd hr (skipped r)

/-- A winner stays when the next candidate, of a higher id, has no larger ratio. -/
theorem IsWinner.stay {id best r : Nat} (h : IsWinner g l (some (id, best))) (ha : g a = .usable r) (later : ∀ j ∈ l, j < a)
    (beaten : r ≤ best) : IsWinner g (l ++ [a]) (some (id, best)) := by
  obtain ⟨mem, usable, most⟩ := h
  refine ⟨List.mem_append_left _ mem, usable, List.forall_mem_append.2 ⟨most, ?_⟩⟩
  simp only [List.mem_singleton, forall_eq, ha, Finding.usable.injEq, forall_eq']
  have := later id mem
  omega

/-- The next candidate wins when its ratio is larger than the winner's, or none has won yet. -/
theorem IsWinner.win {w : Option (Nat × Nat)} {r : Nat} (h : IsWinner g l w) (ha : g a = .usable r)
    (beats : ∀ id best, w = some (id, best) → best < r) : IsWinner g (l ++ [a]) (some (a, r)) := by
  have smaller : ∀ j ∈ l, ∀ q, g j = .usable q → q < r := by
    intro j hj q hq
    cases w with
    | none => exact absurd hq (h j hj q)
    | some w =>
      have := h.2.2 j hj q hq
      have := beats _ _ rfl
      omega
  refine ⟨by simp, ha, List.forall_mem_append.2 ⟨fun j hj q hq => .inl (smaller j hj q hq), ?_⟩⟩
  simp [ha]

end

/-- `f` sums up what `g` finds for the candidates `l`: it has the winner, and counts those skipped by their reason. -/
structure Findings.SumsUp (f : Findings) (g : Nat → Finding) (l : List Nat) : Prop where
  winner : IsWinner g l f.winner
  zeroBaseline : f.zeroBaseline = l.countP fun j => g j = .zeroBaseline
  ratioRange : f.ratioRange = l.countP fun j => g j = .ratioRange

/-- One more candidate, of a higher id than those taken, is taken (R74). -/
theorem Findings.SumsUp.take {f : Findings} {g : Nat → Finding} {l : List Nat} (h : f.SumsUp g l) {a : Nat}
    (later : ∀ j ∈ l, j < a) : (f.take a (g a)).SumsUp g (l ++ [a]) := by
  obtain ⟨winner, zeroBaseline, ratioRange⟩ := h
  cases ha : g a with
  | zeroBaseline =>
    exact ⟨winner.skip (by simp [ha]), by simp [Findings.take, zeroBaseline, ha], by simp [Findings.take, ratioRange, ha]⟩
  | ratioRange =>
    exact ⟨winner.skip (by simp [ha]), by simp [Findings.take, zeroBaseline, ha], by simp [Findings.take, ratioRange, ha]⟩
  | usable r =>
    have counts : l.countP (fun j => g j = .zeroBaseline) = (l ++ [a]).countP (fun j => g j = .zeroBaseline) ∧
        l.countP (fun j => g j = .ratioRange) = (l ++ [a]).countP fun j => g j = .ratioRange := by simp [ha]
    rw [counts.1] at zeroBaseline
    rw [counts.2] at ratioRange
    unfold Findings.take
    cases hw : f.winner with
    | none => exact ⟨winner.win ha (by simp [hw]), zeroBaseline, ratioRange⟩
    | some w =>
      dsimp only
      split
      · next more => exact ⟨winner.win ha (by rw [hw]; rintro _ _ ⟨⟩; exact more), zeroBaseline, ratioRange⟩
      · next less => exact ⟨hw ▸ (hw ▸ winner).stay ha later (Nat.not_lt.1 less), zeroBaseline, ratioRange⟩

/-- The candidates `l` taken after those of `taken`, all in ascending order. -/
theorem Findings.SumsUp.foldl {g : Nat → Finding} {l taken : List Nat} {f : Findings} (h : f.SumsUp g taken)
    (rises : (taken ++ l).Pairwise (· < ·)) : Findings.SumsUp (l.foldl (fun f id => f.take id (g id)) f) g (taken ++ l) := by
  induction l generalizing f taken with
  | nil =>
    rw [List.append_nil]
    exact h
  | cons a l ih =>
    obtain ⟨_, _, later⟩ := List.pairwise_append.1 rises
    have first := h.take fun j hj => later j hj a List.mem_cons_self
    rw [List.append_cons] at rises ⊢
    exact ih first rises

theorem findings_sumUp {n : Net} (h : n.Canonical) (k : Nat) :
    (findings n k).SumsUp (fun j => (n.sensor j).finding) (candidates n k) :=
  have unstarted : Findings.SumsUp {} (fun j => (n.sensor j).finding) [] := ⟨fun _ h => (nomatch h), rfl, rfl⟩
  unstarted.foldl (candidates_rise h k)

/-- A winner gives the run its origin and its ratio (R74). -/
theorem origin_of_winner (n : Net) (c : Cell) {f : Findings} {id ratio : Nat} (h : f.winner = some (id, ratio)) :
    originOf n c f = (n.sensor id).site ∧ f.ratio = ratio := by
  unfold originOf Findings.ratio
  rw [h]
  exact ⟨rfl, rfl⟩

/-- Without a winner the origin is the centre node and the ratio 0 (R74). -/
theorem origin_without_winner (n : Net) (c : Cell) {f : Findings} (h : f.winner = none) :
    originOf n c f = c.centre ∧ f.ratio = 0 := by
  unfold originOf Findings.ratio
  rw [h]
  exact ⟨rfl, rfl⟩

/-- Settles O25: the findings sum up the candidates in ascending order, and the origin follows the winner. -/
theorem locatorPicksTheLargestRatio : Obligations.LocatorPicksTheLargestRatio := by
  refine ⟨fun x => ⟨finding_zeroBaseline, finding_ratioRange, finding_usable⟩, fun n k h => ⟨mem_candidates h k, ?_⟩⟩
  obtain ⟨winner, zeroBaseline, ratioRange⟩ := findings_sumUp h k
  refine ⟨?_, zeroBaseline, ratioRange⟩
  cases hw : (findings n k).winner with
  | none =>
    rw [hw] at winner
    exact ⟨winner, origin_without_winner n _ hw⟩
  | some w =>
    rw [hw] at winner
    obtain ⟨mem, usable, most⟩ := winner
    exact ⟨mem, usable, most, origin_of_winner n _ hw⟩

end Sys2Proof.Machine
end

section
/-! SUPPORT. How a Locator run ends, suspensions, and the sweep (R69, R70, R74 to R77). -/

namespace Sys2Proof.Machine

/-! ### Cells rejudged, the incidents left -/

/-- From `m` to `n` only the judgement of the cells in `P` and the sensors change: the incidents, the other cells and every last
location stay. -/
structure Rejudges (P : Nat → Prop) (m n : Net) : Prop where
  canonical : n.Canonical
  incidents : n.incidents = m.incidents
  others : ∀ j, ¬ P j → n.cell j = m.cell j
  location : ∀ j, (n.cell j).location = (m.cell j).location

theorem Rejudges.refl (P : Nat → Prop) {n : Net} (h : n.Canonical) : Rejudges P n n := ⟨h, rfl, fun _ _ => rfl, fun _ => rfl⟩

theorem Cell.judged_location (c : Cell) (now : Time) : (c.judged now).location = c.location := by
  unfold Cell.judged
  repeat' split
  all_goals rfl

section

variable {P : Nat → Prop} {m n : Net} (h : Rejudges P m n)
include h

theorem Rejudges.setCell {k : Nat} (hk : P k) {v : Cell} (hv : v.location = (n.cell k).location) :
    Rejudges P m (n.setCell k v) where
  canonical := h.canonical.setCell k v
  incidents := h.incidents
  others j hj := (h.canonical.cell_setCell_other (by rintro rfl; exact hj hk) v).trans (h.others j hj)
  location j := by
    rw [h.canonical.cell_setCell]
    split
    · next same => rw [hv, same, h.location]
    · exact h.location j

theorem Rejudges.recompute (e : Env) {k : Nat} (hk : P k) : Rejudges P m (recompute e k n) := by
  unfold Machine.recompute
  dsimp only
  split
  · exact h
  · exact h.setCell hk (Cell.judged_location ..)

theorem Rejudges.rescore {k : Nat} (hk : P k) : Rejudges P m (rescore k n) := h.setCell hk rfl

theorem Rejudges.rebaseline (p : Sensor → Bool) : Rejudges P m (rebaseline p n) :=
  ⟨((Keeps.refl n).rebaseline p).canonical h.canonical, h.incidents, h.others, h.location⟩

/-- A change of each cell of a list, all of them in `P`. -/
theorem Rejudges.foldl {f : Net → Nat → Net} {l : List Nat}
    (hf : ∀ {n : Net} {k : Nat}, k ∈ l → Rejudges P m n → Rejudges P m (f n k)) : Rejudges P m (l.foldl f n) := by
  induction l generalizing n with
  | nil => exact h
  | cons a l ih => exact ih (hf List.mem_cons_self h) fun hk => hf (List.mem_cons_of_mem _ hk)

end

/-! ### Suspension (R69, R70) -/

/-- An incident in SEARCHING, CHECKING, HELD or CLOSING names the cell among its origins (R69). -/
def Net.Names (n : Net) (k : Nat) : Prop :=
  ∃ i, i < 8 ∧ ((n.incident i).state = .searching ∨ (n.incident i).state = .checking ∨ (n.incident i).state = .held ∨
    (n.incident i).state = .closing) ∧ ∃ o ∈ (n.incident i).origins, o.cell = some k

theorem suspends_iff (s : IncidentState) :
    s.suspends = true ↔ s = .searching ∨ s = .checking ∨ s = .held ∨ s = .closing := by
  cases s <;> decide

theorem suspensionHolds_iff (n : Net) (k : Nat) : suspensionHolds n k = true ↔ n.Names k := by
  unfold suspensionHolds Net.Names incidentIds Config.incidentCount
  simp [suspends_iff]

theorem Cell.active_iff (c : Cell) : c.active = true ↔ c.state = .quiet ∨ c.state = .watch ∨ c.state = .tripped := by
  simp [Cell.active, or_assoc]

theorem Cell.suspend_suspend (c : Cell) : c.suspend.suspend = c.suspend := rfl

/-- The cells whose suspension begins at a re-evaluation, ascending (R69). -/
def Net.begins (n : Net) : List Nat := idsWhere (fun k c => c.tag = .adopted && c.active && suspensionHolds n k) n.cells

/-- The cells whose suspension ends at a re-evaluation, ascending (R70). -/
def Net.ends (n : Net) : List Nat :=
  idsWhere (fun k c => c.tag = .adopted && c.state = .suspended && !suspensionHolds n k) n.cells

/-- The suspensions begun. -/
def Net.begun (n : Net) : Net := n.begins.foldl (fun n k => modCell k Cell.suspend n) n

/-- The suspensions begun, and those that end ended. -/
def Net.ended (n : Net) : Net := n.ends.foldl (fun n k => modCell k Cell.resume n) n.begun

theorem reevaluate_no_end (e : Env) {n : Net} (h : n.ends = []) : reevaluate e n = n.ended := by
  unfold Net.ended
  rw [h]
  unfold Net.ends at h
  unfold reevaluate
  dsimp only
  rw [h]
  rfl

theorem reevaluate_some_end (e : Env) {n : Net} (h : n.ends ≠ []) : reevaluate e n =
    n.ends.foldl (fun n k => rescore k (recompute e k n)) (rebaseline (fun x => decide (x.cell ∈ n.ends)) n.ended) := by
  unfold reevaluate
  dsimp only
  rw [if_neg (by simpa [Net.ends] using h)]
  rfl

section

variable {n : Net} (h : n.Canonical)
include h

theorem begins_enumerates : Enumerates n.begins fun k => (n.cell k).tag = .adopted ∧ (n.cell k).active = true ∧ n.Names k := by
  obtain ⟨rises, names⟩ := idsWhere_enumerates
    (p := fun k c => c.tag = .adopted && c.active && suspensionHolds n k) h.cells fun _ => rfl
  refine ⟨rises, fun k => (names k).trans ?_⟩
  simp [Net.cell, suspensionHolds_iff, and_assoc]

theorem ends_enumerates : Enumerates n.ends fun k => (n.cell k).tag = .adopted ∧ (n.cell k).state = .suspended ∧ ¬ n.Names k := by
  obtain ⟨rises, names⟩ := idsWhere_enumerates
    (p := fun k c => c.tag = .adopted && c.state = .suspended && !suspensionHolds n k) h.cells fun _ => rfl
  refine ⟨rises, fun k => (names k).trans ?_⟩
  simp [Net.cell, ← suspensionHolds_iff, and_assoc]

theorem begun_rejudges : Rejudges (· ∈ n.begins) n n.begun :=
  (Rejudges.refl _ h).foldl fun hk r => r.setCell hk rfl

theorem reevaluate_rejudges_begun (e : Env) : Rejudges (· ∈ n.ends) n.begun (reevaluate e n) := by
  have ended : Rejudges (· ∈ n.ends) n.begun n.ended :=
    (Rejudges.refl _ (begun_rejudges h).canonical).foldl fun hk r => r.setCell hk rfl
  by_cases noEnd : n.ends = []
  · rw [reevaluate_no_end e noEnd]
    exact ended
  · rw [reevaluate_some_end e noEnd]
    exact (ended.rebaseline _).foldl fun hk r => (r.recompute e hk).rescore hk

/-- A re-evaluation leaves the incidents. -/
theorem reevaluate_incident (e : Env) (i : Nat) : (reevaluate e n).incident i = n.incident i := by
  unfold Net.incident
  rw [(reevaluate_rejudges_begun h e).incidents, (begun_rejudges h).incidents]

/-- A re-evaluation leaves every last location. -/
theorem reevaluate_location (e : Env) (k : Nat) : ((reevaluate e n).cell k).location = (n.cell k).location :=
  ((reevaluate_rejudges_begun h e).location k).trans ((begun_rejudges h).location k)

/-- Cells suspended one after another. -/
theorem cell_foldl_suspend (l : List Nat) (j : Nat) :
    (l.foldl (fun n k => modCell k Cell.suspend n) n).cell j = if j ∈ l then (n.cell j).suspend else n.cell j := by
  induction l generalizing n with
  | nil => rfl
  | cons a l ih =>
    have first : (modCell a Cell.suspend n).cell j = if j = a then (n.cell j).suspend else n.cell j := by
      refine (h.cell_setCell ..).trans ?_
      split
      · next same => rw [same]
      · rfl
    have canonical : (modCell a Cell.suspend n).Canonical := h.setCell ..
    rw [List.foldl_cons, ih canonical, first]
    by_cases same : j = a <;> simp [same, Cell.suspend_suspend]

/-- An active ADOPTED cell that an incident names is suspended by a re-evaluation (R69). -/
theorem reevaluate_suspends (e : Env) {k : Nat} (adopted : (n.cell k).tag = .adopted) (active : (n.cell k).active = true)
    (named : n.Names k) : (reevaluate e n).cell k = (n.cell k).suspend := by
  have begins : k ∈ n.begins := ((begins_enumerates h).2 k).2 ⟨adopted, active, named⟩
  have stays : k ∉ n.ends := fun hk => (((ends_enumerates h).2 k).1 hk).2.2 named
  rw [(reevaluate_rejudges_begun h e).others k stays]
  exact (cell_foldl_suspend h n.begins k).trans (if_pos begins)

end

/-! ### Opening (R85) -/

/-- The fields of an incident that no claim and no queueing or start of a job changes; the others are blanked. -/
def Incident.jobless (r : Incident) : Incident :=
  { r with generation := 0, depth := 0, frames := [], pendingCauses := [], marker := .none }

/-- Nodes are claimed and jobs queued and started from `m` to `n`: every incident keeps what this does not change. -/
structure Works (m n : Net) : Prop where
  canonical : n.Canonical
  jobless : ∀ i, (n.incident i).jobless = (m.incident i).jobless

theorem Works.refl {n : Net} (h : n.Canonical) : Works n n := ⟨h, fun _ => rfl⟩

section

variable {m n : Net} (h : Works m n)
include h

theorem Works.modIncident (k : Nat) {f : Incident → Incident} (hf : ∀ r, (f r).jobless = r.jobless) :
    Works m (modIncident k f n) where
  canonical := h.canonical.setIncident ..
  jobless i := by
    refine (congrArg Incident.jobless (h.canonical.incident_setIncident ..)).trans ?_
    split
    · next same => rw [hf, same, h.jobless]
    · exact h.jobless i

/-- A change that leaves the tables. -/
theorem Works.aside {n' : Net} (canonical : n'.Canonical) (incidents : n'.incidents = n.incidents) : Works m n' :=
  ⟨canonical, fun i => by unfold Net.incident; rw [incidents]; exact h.jobless i⟩

theorem Works.claimNode (i l k : Nat) : Works m (claimNode i l k n) := by
  have owned : Works m (modNode k (fun x => { x with owner := some ⟨i, l⟩ }) n) := h.aside (h.canonical.setNode ..) rfl
  have counted := owned.modIncident i
    (f := fun r => { r with frames := r.frames.modify l fun f => { f with regionNodes := f.regionNodes + 1 } }) fun _ => rfl
  exact counted.aside (counted.canonical.congr rfl rfl rfl rfl rfl rfl rfl) rfl

theorem Works.setMarker (j : Job) (k : Marker) : Works m (setMarker j k n) := by
  have canonical := canonical_setMarker h.canonical j k
  cases j with
  | boundary i l => exact h.modIncident i (f := fun r => { r with marker := k }) fun _ => rfl
  | supply i g => exact h.modIncident i (f := fun r => { r with marker := k }) fun _ => rfl
  | adoptTopology | adoptSensors | crossCheck => exact h.aside canonical rfl

theorem Works.raise (e : Env) (c : Cause) (a b : Nat) : Works m (raise e c a b n) := h.aside (h.canonical.setCause ..) rfl

theorem Works.pushFrame (e : Env) (i l : Nat) : Works m (pushFrame e i l n) := by
  unfold Machine.pushFrame
  refine Works.raise ?_ ..
  exact h.modIncident i fun _ => rfl

theorem Works.startJob (e : Env) (j : Job) : Works m (startJob e j n) := by
  have taken : Works m { n with walker := some ⟨j, false⟩ } := h.aside { h.canonical with } rfl
  have marked := taken.setMarker j .running
  unfold Machine.startJob
  dsimp only
  split
  · split
    · exact marked
    · exact marked.pushFrame ..
  · exact marked

theorem Works.startFrom (e : Env) (js : List Job) : Works m (startFrom e js n) := by
  induction js generalizing n with
  | nil => exact h.aside { h.canonical with } rfl
  | cons j js ih =>
    unfold Machine.startFrom
    split
    · exact ih (h.setMarker ..)
    · have waiting : Works m { n with jobs := js } := h.aside { h.canonical with } rfl
      exact waiting.startJob e j

theorem Works.startJobs (e : Env) : Works m (startJobs e n) := by
  unfold Machine.startJobs
  split
  · exact h
  · exact h.startFrom ..

theorem Works.queueJob (e : Env) (j : Job) : Works m (queueJob e j n) :=
  ((h.aside (n' := { n with jobs := n.jobs ++ [j] }) { h.canonical with } rfl).setMarker j .queued).startJobs e

end

theorem openIncident_cells (e : Env) (i : Nat) (o : Opening) (n : Net) : (openIncident e i o n).cells = n.cells :=
  (congrArg Net.cells (workless_queueJob e (.boundary i 0) (claimNode i 0 o.node (modIncident i (fun r => r.opened o e.time) n))) :)

/-- The incident as opened, but for its frames and what its job writes (R77, R85). -/
theorem openIncident_jobless (e : Env) (i : Nat) (o : Opening) {n : Net} (h : n.Canonical) :
    ((openIncident e i o n).incident i).jobless = ((n.incident i).opened o e.time).jobless := by
  let opened := modIncident i (fun r => r.opened o e.time) n
  have record : opened.incident i = (n.incident i).opened o e.time := h.incident_setIncident_same ..
  have canonical : opened.Canonical := h.setIncident ..
  have claimed : Works opened (claimNode i 0 o.node opened) := (Works.refl canonical).claimNode i 0 o.node
  rw [← record]
  exact (claimed.queueJob e (.boundary i 0)).jobless i

/-! ### The Locator (R74 to R77) -/

/-- The origin of a run for a cell (R74). -/
abbrev Net.origin (n : Net) (k : Nat) : Nat := originOf n (n.cell k) (findings n k)

/-- The last location that a run for a cell leaves (R74). -/
abbrev Net.location (n : Net) (k : Nat) (e : Env) (outcome : LocationOutcome) (incident : Option Nat) : Location :=
  (findings n k).location e.time (n.origin k) outcome incident

/-- A cell whose evidence an incident absorbs (R75). -/
def Cell.absorb (c : Cell) (l : Location) : Cell :=
  { c with state := .quiet, persist := none, absorbed := satInc c.absorbed, location := some l }

section

variable {n : Net} {k : Nat}

theorem locate_absorbed (e : Env) {w : Owner} (owned : (n.node (n.origin k)).owner = some w) :
    locate e k n = rescore k (rebaseline (fun x => x.cell == k)
      (n.setCell k ((n.cell k).absorb (n.location k e .absorbed (some w.incident))))) := by
  unfold locate
  dsimp only
  rw [owned]
  rfl

/-- A cell written, its sensors re-baselined and its score re-evaluated. -/
theorem cell_rescore_rebaseline (h : n.Canonical) (p : Sensor → Bool) (c : Cell) :
    (rescore k (rebaseline p (n.setCell k c))).cell k = { c with score := scoreOf (rebaseline p (n.setCell k c)) k c } := by
  have canonical := ((Keeps.refl (n.setCell k c)).rebaseline p).canonical (h.setCell k c)
  have written : (rebaseline p (n.setCell k c)).cell k = c := h.cell_setCell_same k c
  unfold rescore modCell
  rw [canonical.cell_setCell_same, written]

theorem locate_noIncident (e : Env) (owner : (n.node (n.origin k)).owner = none) (full : lowestFree n = none) :
    locate e k n = raise e .noIncident k (n.origin k)
      (n.setCell k { n.cell k with location := some (n.location k e .noIncident none) }) := by
  unfold locate
  dsimp only
  rw [owner, full]

theorem locate_opened (e : Env) (owner : (n.node (n.origin k)).owner = none) {i : Nat} (free : lowestFree n = some i) :
    locate e k n = reevaluate e (openIncident e i
      ⟨n.origin k, some k, (n.cell k).policy, (n.cell k).holdExpiry, (findings n k).note⟩
      (n.setCell k { n.cell k with location := some (n.location k e .opened (some i)) })) := by
  unfold locate
  dsimp only
  rw [owner, free]

end

/-- An opening by the Locator, for a cell whose last location is written already: the incident and the cell (R69, R77, R85; log 15). -/
theorem reevaluate_openIncident (e : Env) {i k : Nat} (hi : i < 8) (o : Opening) (ho : o.cell = some k) {n : Net} (h : n.Canonical) :
    let t := reevaluate e (openIncident e i o n)
    (t.incident i).jobless = ((n.incident i).opened o e.time).jobless ∧
    (t.cell k).location = (n.cell k).location ∧
    ((n.cell k).tag = .adopted → (n.cell k).active = true → t.cell k = (n.cell k).suspend) := by
  have canonical : (openIncident e i o n).Canonical := ((Keeps.refl n).openIncident e i o).canonical h
  have record := openIncident_jobless e i o h
  have cell : (openIncident e i o n).cell k = n.cell k := congrArg (lookup Cell.atReset · k) (openIncident_cells e i o n)
  have named : (openIncident e i o n).Names k :=
    ⟨i, hi, .inl (congrArg Incident.state record :), ⟨o.node, o.cell, e.time⟩,
      (congrArg Incident.origins record :) ▸ List.mem_singleton_self _, ho⟩
  refine ⟨?_, ?_, fun adopted active => ?_⟩
  · rw [reevaluate_incident canonical, record]
  · rw [reevaluate_location canonical, cell]
  · rw [reevaluate_suspends canonical e (by rw [cell, adopted]) (by rw [cell, active]) named, cell]

/-! ### The sweep (R76) -/

theorem lowestFree_isSome_iff (n : Net) : (lowestFree n).isSome = true ↔ ∃ i ∈ List.range 8, (n.incident i).state = .free := by
  unfold lowestFree
  rw [List.find?_isSome]
  simp [incidentIds, Config.incidentCount]

theorem sweep_over (e : Env) {n : Net} (h : n.Canonical) {cells : List Nat}
    (hc : Enumerates cells fun k => (n.cell k).tag = .adopted) : sweep e n = cells.foldl (fun n k =>
      if (n.cell k).active = true ∧ (n.cell k).required ≤ (n.cell k).score ∧ ∃ i ∈ List.range 8, (n.incident i).state = .free
      then locate e k n else n) n := by
  have adopted : idsWhere (fun _ (c : Cell) => decide (c.tag = .adopted)) n.cells = cells :=
    hc.idsWhere_eq h.cells (fun _ => rfl) fun _ => decide_eq_true_iff
  unfold sweep
  rw [adopted]
  refine congrArg (List.foldl · n cells) (funext fun n => funext fun k => ite_congr (propext ?_) (fun _ => rfl) fun _ => rfl)
  rw [Bool.and_eq_true, Bool.and_eq_true, decide_eq_true_iff, lowestFree_isSome_iff, and_assoc]

/-- Settles O26: the three outcomes by the equations of a run, the re-evaluation and the sweep by the lists that name their cells. -/
theorem locatorEndsInOneOfThreeOutcomes : Obligations.LocatorEndsInOneOfThreeOutcomes := by
  refine ⟨fun e k n h => ⟨fun w owned => ?_, fun owner full => locate_noIncident e owner (lowestFree_none full),
    fun i owner hi free lowest => ?_⟩, fun n c f => ⟨fun id ratio => origin_of_winner n c, origin_without_winner n c⟩,
    Cell.active_iff, fun e n begins ends h hb he => ?_, fun e n cells h hc => sweep_over e h hc, fun e n => ⟨rfl, rfl⟩⟩
  · have run := locate_absorbed e owned
    have cell := cell_rescore_rebaseline h (k := k) (fun x => x.cell == k)
      ((n.cell k).absorb (n.location k e .absorbed (some w.incident)))
    rw [← run] at cell
    exact ⟨(congrArg Cell.state cell :), (congrArg Cell.persist cell :), (congrArg Cell.absorbed cell :),
      (congrArg Cell.location cell :), by rw [run]; rfl, by rw [run]; rfl, run⟩
  · obtain ⟨record, location, suspended⟩ := reevaluate_openIncident e hi
      ⟨n.origin k, some k, (n.cell k).policy, (n.cell k).holdExpiry, (findings n k).note⟩ rfl
      (h.setCell k { n.cell k with location := some (n.location k e .opened (some i)) })
    rw [← locate_opened e owner (lowestFree_at hi free lowest)] at record location suspended
    rw [h.cell_setCell_same] at location suspended
    refine ⟨(congrArg Incident.state record :), (congrArg Incident.origins record :), (congrArg Incident.policy record :),
      (congrArg Incident.holdExpiry record :), (congrArg Incident.note record :), location, fun adopted active => ?_⟩
    have cell := suspended adopted active
    exact ⟨(congrArg Cell.state cell :), (congrArg Cell.persist cell :), (congrArg Cell.score cell :)⟩
  · obtain rfl := hb.unique (begins_enumerates h)
    obtain rfl := he.unique (ends_enumerates h)
    exact ⟨reevaluate_no_end e, reevaluate_some_end e⟩

end Sys2Proof.Machine
end

section
/-! SUPPORT. The requests that open and consent to an incident, the entry into CLOSING, the judgement of isolation, and close requests
(R86, R89 to R92, R94, R148). -/

namespace Sys2Proof.Machine

/-! ### ISOLATE_NODE (R86) -/

section

variable (e : Env) {k : Nat} {n : Net}

theorem requestIsolateNode_badId (h : 4096 ≤ k ∨ (n.node k).tag ≠ .adopted) : requestIsolateNode e k n = refuse n .badId := if_pos h

variable (hk : k < 4096) (adopted : (n.node k).tag = .adopted)
include hk adopted

/-- An id that names an ADOPTED node: the checks after the first. -/
theorem requestIsolateNode_named : requestIsolateNode e k n =
    if (n.node k).kind = .source then refuse n .badNode
    else if (n.node k).owner.isSome then refuse n .regionActive
    else match lowestFree n with
      | none => refuse n .noIncident
      | some i => accept (noteIncident i (openIncident e i ⟨k, none, .auto, 0, {}⟩ n)) i :=
  if_neg (not_or.2 ⟨Nat.not_le.2 hk, not_not_intro adopted⟩)

theorem requestIsolateNode_badNode (kind : (n.node k).kind = .source) : requestIsolateNode e k n = refuse n .badNode := by
  rw [requestIsolateNode_named e hk adopted, if_pos kind]

variable (kind : (n.node k).kind = .junction)
include kind

theorem requestIsolateNode_regionActive (owned : (n.node k).owner ≠ none) :
    requestIsolateNode e k n = refuse n .regionActive := by
  rw [requestIsolateNode_named e hk adopted, if_neg (by rw [kind]; decide), if_pos (Option.isSome_iff_ne_none.2 owned)]

variable (unowned : (n.node k).owner = none)
include unowned

theorem requestIsolateNode_noIncident (full : lowestFree n = none) : requestIsolateNode e k n = refuse n .noIncident := by
  rw [requestIsolateNode_named e hk adopted, if_neg (by rw [kind]; decide), unowned, full]
  rfl

theorem requestIsolateNode_opens {i : Nat} (free : lowestFree n = some i) :
    requestIsolateNode e k n = accept (noteIncident i (openIncident e i ⟨k, none, .auto, 0, {}⟩ n)) i := by
  rw [requestIsolateNode_named e hk adopted, if_neg (by rw [kind]; decide), unowned, free]
  rfl

end

/-- Settles O28: each check of the request by the first that stands in the way, the opening by the lowest FREE incident. -/
theorem isolateNodeRequest : Obligations.IsolateNodeRequest := by
  intro s w w0 w1 w2 ready live k x refused
  have handed : judgeControl s.env 4 w0 w1 w2 s.net = requestIsolateNode s.env k s.net :=
    judgeControl_handed s.env (q := .isolateNode) rfl w0 w1 w2 (.inr live)
  have refuses : ∀ why, s.net.Settled → requestIsolateNode s.env k s.net = refuse s.net why → refused why :=
    fun why settled h => congrArg _ (controlWrite_refused ready settled w 4 why 0 (handed.trans h))
  refine ⟨fun settled bad => refuses _ settled (requestIsolateNode_badId _ bad),
    fun settled hk adopted kind => refuses _ settled (requestIsolateNode_badNode _ hk adopted kind),
    fun settled hk adopted kind owned => refuses _ settled (requestIsolateNode_regionActive _ hk adopted kind owned),
    fun settled hk adopted kind unowned full =>
      refuses _ settled (requestIsolateNode_noIncident _ hk adopted kind unowned (lowestFree_none full)),
    fun i hk adopted kind unowned hi free lowest => ?_⟩
  exact congrArg _ (controlWrite_answer ready w 4 _
    (handed.trans (requestIsolateNode_opens _ hk adopted kind unowned (lowestFree_at hi free lowest))))

/-! ### CONFIRM and the expiry of a hold (R90, R91) -/

section

variable (e : Env) {i : Nat} {n : Net}

theorem requestConfirm_badId (h : 8 ≤ i) : requestConfirm e i n = refuse n .badId := if_pos h

variable (hi : i < 8)
include hi

theorem requestConfirm_wrongState (h : (n.incident i).state ≠ .held) :
    requestConfirm e i n = refuse n .wrongState (n.incident i).state.code :=
  (if_neg (Nat.not_le.2 hi)).trans (if_pos h)

theorem requestConfirm_taken (h : (n.incident i).state = .held) :
    requestConfirm e i n = accept (enterClosing e i n) (requestsAtClosing n i).length :=
  (if_neg (Nat.not_le.2 hi)).trans (if_neg (not_not_intro h))

end

/-- Settles O30: the request judged by the incident's state, the expiry by the hold and its timer. -/
theorem confirmAndHoldExpiryEnterClosing : Obligations.ConfirmAndHoldExpiryEnterClosing := by
  refine ⟨fun s w w0 w1 w2 ready live => ?_, fun s incident released => ?_⟩
  · have handed : judgeControl s.env 5 w0 w1 w2 s.net = requestConfirm s.env w0.toNat s.net :=
      judgeControl_handed s.env (q := .confirm) rfl w0 w1 w2 (.inr live)
    refine ⟨fun hi held => ?_, fun settled hi => ?_, fun settled hi state => ?_⟩
    · exact congrArg _ (controlWrite_answer ready w 5 _ (handed.trans (requestConfirm_taken _ hi held)))
    · exact congrArg _ (controlWrite_refused ready settled w 5 _ _ (handed.trans (requestConfirm_badId _ hi)))
    · exact congrArg _ (controlWrite_refused ready settled w 5 _ _ (handed.trans (requestConfirm_wrongState _ hi state)))
  · have expired : exec (.holdExpiry incident) s =
        .next { s with net := settle s.env (expireHold s.env incident.toNat s.net) } :=
      congrArg _ (State.expire_net released (.hold incident.toNat))
    refine ⟨fun held policy due => ?_, fun settled unexpired => ?_⟩
    · have entered : expireHold s.env incident.toNat s.net = enterClosing s.env incident.toNat s.net :=
        if_pos ⟨held, policy, due⟩
      rw [expired, entered]
    · have kept : expireHold s.env incident.toNat s.net = s.net := by
        refine if_neg fun ⟨held, policy, due⟩ => ?_
        have stopped : timerDue (s.net.incident incident.toNat).holdTimer s.time = false :=
          (unexpired.resolve_left (not_not_intro held)).resolve_left (not_not_intro policy)
        exact absurd due (by rw [show s.env.time = s.time from rfl, stopped]; decide)
      rw [expired, kept, settle_settled_net _ settled]

/-! ### Isolation (R94) -/

@[simp] theorem raise_incident (e : Env) (c : Cause) (a b : Nat) (n : Net) (i : Nat) : (raise e c a b n).incident i = n.incident i := rfl

@[simp] theorem incident_noteIncident (i j : Nat) (n : Net) : (noteIncident i n).incident j = n.incident j := by
  unfold noteIncident
  split <;> rfl

/-- The isolation condition over the frames: every valve listed is failed-flagged, or confirmed closed at REST; no job and no pending
cause stands (R94). -/
theorem isolationMet_iff (n : Net) (i : Nat) : isolationMet n i = true ↔
    (∀ f ∈ (n.incident i).frames, ∀ b ∈ f.boundary, b.failed = true ∨
      ((n.valve b.valve).confirmedClosed n.params = true ∧ (n.valve b.valve).motion = .rest)) ∧
    (n.incident i).marker = .none ∧ (n.incident i).pendingCauses = [] := by
  unfold isolationMet Incident.boundary
  simp [and_assoc]

theorem judgeIsolation_isolates (e : Env) {i : Nat} {n : Net} (state : (n.incident i).state = .closing)
    (met : isolationMet n i = true) : judgeIsolation e i n = noteIncident i (raise e .isolated i (n.incident i).depth
      (n.setIncident i { n.incident i with state := .isolated, timeIsolated := some e.time })) := if_pos ⟨state, met⟩

theorem judgeIsolation_waits (e : Env) {i : Nat} {n : Net} (h : (n.incident i).state ≠ .closing ∨ ¬ isolationMet n i = true) :
    judgeIsolation e i n = n := if_neg fun ⟨state, met⟩ => h.elim (· state) (· met)

/-- What an isolation writes in the incidents. -/
theorem incident_judgeIsolation (e : Env) (i : Nat) {n : Net} (h : n.Canonical) :
    ((judgeIsolation e i n).incident i = n.incident i ∨
      (judgeIsolation e i n).incident i = { n.incident i with state := .isolated, timeIsolated := some e.time }) ∧
    ∀ j, j ≠ i → (judgeIsolation e i n).incident j = n.incident j := by
  by_cases judged : (n.incident i).state = .closing ∧ isolationMet n i = true
  · rw [judgeIsolation_isolates e judged.1 judged.2]
    refine ⟨.inr ?_, fun j hj => ?_⟩
    · rw [incident_noteIncident, raise_incident, h.incident_setIncident_same]
    · rw [incident_noteIncident, raise_incident, h.incident_setIncident_other hj]
  · rw [judgeIsolation_waits e (Decidable.not_and_iff_or_not.1 judged)]
    exact ⟨.inl rfl, fun _ _ => rfl⟩

/-! ### Close requests (R148) -/

section

variable (e : Env) {v : Nat} {n : Net}

theorem closeRequest_atRest (h : (n.valve v).motion = .rest ∨ (n.valve v).motion = .fault) :
    closeRequest e v n = joinQueue e v .close n := by
  unfold closeRequest
  rcases h with h | h <;> simp only [h]

theorem closeRequest_closing (rest : (n.valve v).motion ≠ .rest) (fault : (n.valve v).motion ≠ .fault)
    (h : (n.valve v).purpose = .close) : closeRequest e v n = n := by
  unfold closeRequest
  cases motion : (n.valve v).motion with
  | rest => exact absurd motion rest
  | fault => exact absurd motion fault
  | waiting | issued | travel => simp only [motion, h]

theorem closeRequest_waiting (motion : (n.valve v).motion = .waiting) (h : (n.valve v).purpose ≠ .close) :
    closeRequest e v n = joinQueue e v .close (abortTest e v (n.valve v) .closeRequest n) := by
  unfold closeRequest
  cases purpose : (n.valve v).purpose with
  | close => exact absurd purpose h
  | none | openUp | testOut | testBack => simp only [motion, purpose]

theorem closeRequest_moving (motion : (n.valve v).motion = .issued ∨ (n.valve v).motion = .travel)
    (h : (n.valve v).purpose ≠ .close) :
    closeRequest e v n = joinQueue e v .close (abortTest e v (n.valve v) .closeRequest (stopStroke e v n)) := by
  unfold closeRequest
  cases purpose : (n.valve v).purpose with
  | close => exact absurd purpose h
  | none | openUp | testOut | testBack => rcases motion with motion | motion <;> simp only [motion, purpose]

end

theorem abortTest_incident (e : Env) (v : Nat) (x : Valve) (why : AbortCause) (n : Net) (i : Nat) :
    (abortTest e v x why n).incident i = n.incident i := by
  unfold abortTest
  split <;> rfl

/-- A close request leaves the incidents. -/
theorem closeRequest_incident (e : Env) (v : Nat) (n : Net) (i : Nat) : (closeRequest e v n).incident i = n.incident i := by
  have joined : ∀ m, (joinQueue e v .close m).incident i = m.incident i := fun m => aside_incident (aside_joinQueue e v .close m) i
  unfold closeRequest
  dsimp only
  split
  · exact joined n
  · exact joined n
  · rfl
  · rw [joined, abortTest_incident]
  · rw [joined, abortTest_incident, aside_incident (aside_stopStroke e v n)]

theorem closeRequests_made_incident (e : Env) (l : List Nat) (n : Net) (i : Nat) :
    (l.foldl (fun n v => closeRequest e v n) n).incident i = n.incident i := by
  induction l generalizing n with
  | nil => rfl
  | cons v l ih => rw [List.foldl_cons, ih, closeRequest_incident]

/-! ### The entry into CLOSING (R89 to R92) -/

/-- A valve listed in the boundary list of a checked frame that is asked to close (R92). -/
def Net.closes (n : Net) (b : Boundary) : Bool :=
  !b.failed && !(n.valve b.valve).confirmedClosed n.params && !(n.valve b.valve).inCloseStroke

theorem Valve.inCloseStroke_iff (x : Valve) : x.inCloseStroke = true ↔
    x.purpose = .close ∧ (x.motion = .waiting ∨ x.motion = .issued ∨ x.motion = .travel) := by
  simp [Valve.inCloseStroke, Valve.inStroke, or_assoc, and_comm]

/-- The requests made of a list of boundary entries are the valves of those that are to close, in the list's order. -/
theorem closing_entries (p : Boundary → Bool) (l : List Boundary) :
    (l.filterMap fun b => if p b then some b.valve else none) = (l.filter p).map Boundary.valve := by
  induction l with
  | nil => rfl
  | cons b l ih => cases h : p b <;> simp [h, ih]

/-- The close requests of an incident depend on its frames, on the valves and on the parameters alone. -/
theorem closeRequests_congr {m n : Net} {i : Nat} (frames : (m.incident i).frames = (n.incident i).frames)
    (valves : m.valves = n.valves) (globals : m.globals = n.globals) : closeRequests m i = closeRequests n i := by
  unfold closeRequests Net.valve Net.params
  rw [frames, valves, globals]

section

variable {n : Net} (h : n.Canonical) (i : Nat)
include h

theorem requestsAtClosing_eq : requestsAtClosing n i =
    (((n.incident i).frames.flatMap Frame.boundary).filter n.closes).map Boundary.valve := by
  have checked : (modIncident i Incident.allChecked n).incident i = (n.incident i).allChecked := h.incident_setIncident_same ..
  unfold requestsAtClosing closeRequests
  rw [checked, ← closing_entries]
  refine congrArg (List.filterMap _) ?_
  unfold Incident.allChecked
  induction (n.incident i).frames with
  | nil => rfl
  | cons f l ih => simpa using ih

theorem mem_requestsAtClosing (v : Nat) : v ∈ requestsAtClosing n i ↔
    ∃ f ∈ (n.incident i).frames, ∃ b ∈ f.boundary, b.valve = v ∧ b.failed = false ∧
      (n.valve v).confirmedClosed n.params = false ∧ ¬ ((n.valve v).purpose = .close ∧
        ((n.valve v).motion = .waiting ∨ (n.valve v).motion = .issued ∨ (n.valve v).motion = .travel)) := by
  rw [requestsAtClosing_eq h, List.mem_map]
  simp only [List.mem_filter, List.mem_flatMap, Net.closes, Bool.and_eq_true, Bool.not_eq_true', ← Valve.inCloseStroke_iff,
    Bool.not_eq_true]
  constructor
  · rintro ⟨b, ⟨⟨f, hf, hb⟩, ⟨failed, unconfirmed⟩, still⟩, rfl⟩
    exact ⟨f, hf, b, hb, rfl, failed, unconfirmed, still⟩
  · rintro ⟨f, hf, b, hb, rfl, failed, unconfirmed, still⟩
    exact ⟨b, ⟨⟨f, hf, hb⟩, ⟨failed, unconfirmed⟩, still⟩, rfl⟩

theorem requestsAtClosing_sublist :
    (requestsAtClosing n i).Sublist (((n.incident i).frames.flatMap Frame.boundary).map Boundary.valve) := by
  rw [requestsAtClosing_eq h]
  exact List.filter_sublist.map _

end

/-- The incident record at the entry into CLOSING (R89 to R91). -/
def Incident.consented (r : Incident) : Incident := { r.unheld.allChecked with state := .closing }

/-- An incident that has entered CLOSING, its notice given and no close request made. -/
def enteredClosing (i : Nat) (n : Net) : Net := noteIncident i (n.setIncident i (n.incident i).consented)

section

variable (e : Env) (i : Nat) {n : Net} (h : n.Canonical)
include h

theorem incident_enteredClosing (j : Nat) :
    (enteredClosing i n).incident j = if j = i then (n.incident i).consented else n.incident j :=
  (incident_noteIncident ..).trans (h.incident_setIncident ..)

/-- The entry into CLOSING makes the requests that were to be made before it, and judges isolation. -/
theorem enterClosing_eq : enterClosing e i n =
    judgeIsolation e i ((requestsAtClosing n i).foldl (fun n v => closeRequest e v n) (enteredClosing i n)) := by
  have requests : closeRequests (enteredClosing i n) i = requestsAtClosing n i := by
    refine closeRequests_congr ?_ ?_ ?_
    · rw [incident_enteredClosing i h, if_pos rfl, modIncident, h.incident_setIncident_same]
      rfl
    all_goals
      unfold enteredClosing noteIncident
      split <;> rfl
  rw [← requests]
  rfl

/-- What an entry into CLOSING writes in the incidents: CLOSING, or ISOLATED at once. -/
theorem incident_enterClosing :
    ((enterClosing e i n).incident i = (n.incident i).consented ∨
      (enterClosing e i n).incident i = { (n.incident i).consented with state := .isolated, timeIsolated := some e.time }) ∧
    ∀ j, j ≠ i → (enterClosing e i n).incident j = n.incident j := by
  let requested := (requestsAtClosing n i).foldl (fun n v => closeRequest e v n) (enteredClosing i n)
  have incidents : ∀ j, requested.incident j = if j = i then (n.incident i).consented else n.incident j :=
    fun j => (closeRequests_made_incident ..).trans (incident_enteredClosing i h j)
  have entered : (enteredClosing i n).Canonical := ((Keeps.refl n).setIncident i _).noteIncident i |>.canonical h
  have canonical : requested.Canonical := (Keeps.foldl (fun v k => k.closeRequest e v) (Keeps.refl _) _).canonical entered
  obtain ⟨own, others⟩ := incident_judgeIsolation e i canonical
  rw [incidents, if_pos rfl, ← enterClosing_eq e i h] at own
  refine ⟨own, fun j hj => ?_⟩
  rw [enterClosing_eq e i h, others j hj, incidents, if_neg hj]

end

/-- Settles O31: the entry by the incidents it leaves and the requests it makes, isolation by its condition, a close request by the
motion and purpose it finds. -/
theorem closingChecksFramesAndJudgesIsolation : Obligations.ClosingChecksFramesAndJudgesIsolation := by
  refine ⟨fun e i n h => ?_, fun e i n h => ⟨fun state met => ?_, fun waits => ?_⟩,
    fun e v n => ⟨closeRequest_atRest e, closeRequest_closing e, closeRequest_waiting e, closeRequest_moving e⟩⟩
  · intro r t entered
    obtain ⟨own, others⟩ := incident_enterClosing e i h
    have record : t.frames = r.consented.frames ∧ t.holdTimer = none ∧ t.holdReason = .none ∧
        (t.state = .closing ∨ (t.state = .isolated ∧ t.timeIsolated = some e.time)) := by
      rcases own with own | own
      · exact ⟨(congrArg Incident.frames own :), congrArg Incident.holdTimer own, congrArg Incident.holdReason own,
          .inl (congrArg Incident.state own)⟩
      · exact ⟨(congrArg Incident.frames own :), congrArg Incident.holdTimer own, congrArg Incident.holdReason own,
          .inr ⟨congrArg Incident.state own, congrArg Incident.timeIsolated own⟩⟩
    obtain ⟨frames, timer, reason, state⟩ := record
    exact ⟨frames, timer, reason, state, others, enterClosing_eq e i h, mem_requestsAtClosing h i, requestsAtClosing_sublist h i⟩
  · have isolated := judgeIsolation_isolates e state ((isolationMet_iff n i).2 met)
    refine ⟨?_, isolated⟩
    rw [isolated, incident_noteIncident, raise_incident, h.incident_setIncident_same]
  · exact judgeIsolation_waits e (waits.imp_right (mt (isolationMet_iff n i).1))

end Sys2Proof.Machine
end

section
/-! SUPPORT. What completions, phase changes, faults, stops, the loss of a holder, the end of a test and the count of a release write
(R83, R99, R115, R153, R159 to R161, R168, R171, R172). -/

namespace Sys2Proof.Machine

/-! ### Slots given up (R150, R161) -/

/-- A list without an entry, as the statements spell it. -/
theorem filter_bne (v : Nat) : (· != v) = fun u => decide (u ≠ v) := by
  funext u
  by_cases h : u = v <;> simp [h]

section

variable (e : Env) {v : Nat} {n : Net}

theorem vacate_slot (h : v ∈ n.slots) : vacate e v n =
    arbitrate e { n with queue := n.queue.without v, slots := n.slots.filter fun u => decide (u ≠ v) } := by
  rw [← filter_bne]
  exact if_pos h

theorem vacate_noSlot (h : v ∉ n.slots) : vacate e v n =
    { n with queue := n.queue.without v, slots := n.slots.filter fun u => decide (u ≠ v) } := by
  rw [← filter_bne]
  exact if_neg h

end

/-! ### Completions (R159, R171, R172) -/

/-- A valve whose stroke has ended, its timers stopped and its pickup no longer awaited (R159). -/
def Valve.rested (x : Valve) : Valve := { x.still with motion := .rest, purpose := .none }

theorem Valve.rate_eq (x : Valve) (ph : Phase) : x.rate ph = if ph = .fine then x.fineRate else x.coarseRate := by
  cases ph <;> rfl

theorem Valve.phaseAt_fine {x : Valve} (h : ∀ r, x.report = some r → r.position ≤ x.crossover) : x.phaseAt .fine = .fine := by
  unfold Valve.phaseAt
  cases report : x.report with
  | none => rfl
  | some r => exact if_pos (h r report)

theorem Valve.phaseAt_coarse {x : Valve} (h : ∃ r, x.report = some r ∧ x.crossover < r.position) : x.phaseAt .fine = .coarse := by
  obtain ⟨r, report, above⟩ := h
  unfold Valve.phaseAt
  rw [report]
  exact if_neg (Nat.not_le.2 above)

section

variable (e : Env) {v : Nat} {n : Net}

theorem completeStroke_close (h : (n.valve v).purpose = .close) : completeStroke e v n =
    vacate e v (noteValve v false (n.setValve v { (if (n.valve v).motion = .waiting
      then { (n.valve v).rested with phase := .fine }.present 0 (n.valve v).fineRate .close .close false
      else (n.valve v).rested) with seated := true })) := by
  unfold completeStroke
  simp only [h]
  rfl

theorem completeStroke_open (h : (n.valve v).purpose = .openUp) : completeStroke e v n =
    handback e v (endReleaseOwner e v .opened (vacate e v (noteValve v false (n.setValve v (n.valve v).rested)))) := by
  unfold completeStroke
  simp only [h]
  rfl

theorem completeStroke_testOut (h : (n.valve v).purpose = .testOut) : completeStroke e v n = startTestBack e v n := by
  unfold completeStroke
  simp only [h]

theorem completeStroke_testBack (h : (n.valve v).purpose = .testBack) : completeStroke e v n =
    handback e v (endTest e v .good .testBack .none .none
      (vacate e v (noteValve v false (n.setValve v { (n.valve v).rested with health := .good })))) := by
  unfold completeStroke
  simp only [h]
  rfl

/-- The TEST_BACK leg in the phase of the stored position (R153, R171). -/
theorem startTestBack_phase {ph : Phase} (h : (n.valve v).phaseAt .fine = ph) : startTestBack e v n =
    noteValve v false (n.setValve v { n.valve v with
      phase := ph, imageSeq := (n.valve v).imageSeq + 1
      image := some ⟨(n.valve v).test.home, if ph = .fine then (n.valve v).fineRate else (n.valve v).coarseRate, .testBack,
        (n.valve v).imageSeq + 1, .test, true⟩
      purpose := .testBack, motion := .issued, progress := none, deadline := none
      pickup := some (e.time + BitVec.ofNat 32 n.params.pickupTimeout) }) := by
  rw [← Valve.rate_eq, ← h]
  rfl

end

/-! ### Phase changes (R153) -/

section

variable (e : Env) {v : Nat} (position : Nat) {n : Net}

/-- The phase turned: a new image at the phase's rate, awaiting pickup. -/
theorem changePhase_turns {m : Image} {ph : Phase} (turns : (n.valve v).newPhase position = some ph)
    (image : (n.valve v).image = some m) : changePhase e v position n = n.setValve v { n.valve v with
      phase := ph, imageSeq := (n.valve v).imageSeq + 1
      image := some ⟨m.target, (n.valve v).rate ph, m.purpose, (n.valve v).imageSeq + 1, m.source, true⟩
      pickup := some (e.time + BitVec.ofNat 32 n.params.pickupTimeout) } := by
  unfold changePhase
  simp only [turns, image]
  rfl

theorem changePhase_stays (stays : (n.valve v).newPhase position = none) : changePhase e v position n = n := by
  unfold changePhase
  simp only [stays]

end

section

variable {x : Valve} (position : Nat)

theorem Valve.newPhase_testOut (h : x.purpose = .testOut) : x.newPhase position = none := by
  unfold Valve.newPhase
  simp only [h]

variable (purpose : x.purpose = .close ∨ x.purpose = .openUp ∨ x.purpose = .testBack) {m : Image} (image : x.image = some m)
include purpose image

theorem Valve.newPhase_coarse (phase : x.phase = .coarse) :
    x.newPhase position = if position ≤ x.crossover ∧ m.target < x.crossover then some .fine else none := by
  unfold Valve.newPhase
  rcases purpose with h | h | h <;> simp only [h, image, phase]

theorem Valve.newPhase_fine (phase : x.phase = .fine) :
    x.newPhase position = if x.crossover < position ∧ x.crossover < m.target then some .coarse else none := by
  unfold Valve.newPhase
  rcases purpose with h | h | h <;> simp only [h, image, phase]

end

/-! ### Faults (R160, R172) -/

/-- A valve in FAULT, out of the queue and the slots, the fault raised and reported (R160). -/
def faulted (e : Env) (v : Nat) (why : FaultReason) (n : Net) : Net :=
  vacate e v (noteValve v true (raise e .valveFault v why.code (n.setValve v { (n.valve v).still with
    motion := .fault, fault := why, health := if why = .noPickup then (n.valve v).health else .seized })))

section

variable (e : Env) {v : Nat} (why : FaultReason) {n : Net}

theorem faultStroke_close (h : (n.valve v).purpose = .close) : faultStroke e v why n = faulted e v why n := by
  unfold faultStroke
  simp only [h]
  rfl

theorem faultStroke_open (h : (n.valve v).purpose = .openUp) :
    faultStroke e v why n = handback e v (endReleaseOwner e v .faulted (faulted e v why n)) := by
  unfold faultStroke
  simp only [h]
  rfl

theorem faultStroke_test (h : (n.valve v).purpose = .testOut ∨ (n.valve v).purpose = .testBack) : faultStroke e v why n =
    handback e v (endTest e v (if why = .noPickup then .link else .seized) (n.valve v).purpose why .none (faulted e v why n)) := by
  unfold faultStroke
  rcases h with h | h <;> simp only [h] <;> rfl

end

/-! ### Stops and lost holders (R83, R115, R161) -/

theorem Valve.holdTarget_eq (x : Valve) : x.holdTarget = match x.report with
    | some r => r.position
    | none => if x.normal = .opened then 1000 else 0 := by
  unfold Valve.holdTarget
  cases x.report with
  | some r => rfl
  | none => cases x.normal <;> rfl

/-- A stopped stroke leaves its valve under a new HOLD image (R115, R161). -/
theorem stopStroke_eq (e : Env) (v : Nat) (n : Net) : stopStroke e v n =
    vacate e v (noteValve v false (n.setValve v { (n.valve v).rested with
      imageSeq := (n.valve v).imageSeq + 1
      image := some ⟨(n.valve v).holdTarget, 0, .none, (n.valve v).imageSeq + 1, .hold, false⟩ })) := rfl

/-- A valve without an incident's holder bit (R83). -/
def Valve.without (x : Valve) (i : Nat) : Valve := { x with holders := x.holders.filter fun k => decide (k ≠ i) }

/-- The bit is taken from the valve, and a CLOSE stroke that it was the last to hold is stopped. -/
theorem loseHolder_eq (e : Env) {i v : Nat} {n : Net} (h : n.Canonical) : loseHolder e i v n =
    if ((n.valve v).without i).holders = [] ∧ ((n.valve v).without i).inCloseStroke
    then stopStroke e v (n.setValve v ((n.valve v).without i)) else n.setValve v ((n.valve v).without i) := by
  have lost : modValve v (fun x => { x with holders := x.holders.filter (· != i) }) n = n.setValve v ((n.valve v).without i) := by
    rw [filter_bne]
    rfl
  unfold loseHolder
  rw [lost]
  dsimp only
  rw [h.valve_setValve_same]

theorem Valve.inCloseStroke_and (x : Valve) : x.inCloseStroke = true ↔ x.inStroke = true ∧ x.purpose = .close := by
  simp [Valve.inCloseStroke]

/-! ### Tests and releases that end (R99, R168) -/

theorem testEnding_eq (result : TestResult) (leg : Purpose) : testEnding result leg = match result with
    | .none => 0
    | .good => 1
    | .seized => 2 + if leg = .testBack then 1 else 0
    | .link => 4 + if leg = .testBack then 1 else 0
    | .aborted => 6 + if leg = .testBack then 1 else 0 := by
  cases result <;> rfl

section

variable (e : Env) {v : Nat} (part : ReleasePart) {n : Net}

theorem endReleaseOwner_none (h : (n.valve v).releaseOwner = none) : endReleaseOwner e v part n = n := by
  unfold endReleaseOwner
  rw [h]

theorem endReleaseOwner_some {k : Nat} (h : (n.valve v).releaseOwner = some k) :
    endReleaseOwner e v part n = countRelease e k part (n.setValve v { n.valve v with releaseOwner := none }) := by
  unfold endReleaseOwner
  rw [h]
  rfl

/-- The valve counted: one fewer to reopen, one more in its part of the tally; the incident is FREE when a releasing one's count is 0. -/
theorem countRelease_eq {k : Nat} (h : n.Canonical) : countRelease e k part n =
    if (n.incident k).state = .releasing ∧ (n.incident k).reopen - 1 = 0
    then enterFree e k (n.setIncident k { n.incident k with
      reopen := (n.incident k).reopen - 1, tally := (n.incident k).tally.add part })
    else n.setIncident k { n.incident k with
      reopen := (n.incident k).reopen - 1, tally := (n.incident k).tally.add part } := by
  unfold countRelease modIncident
  dsimp only
  rw [h.incident_setIncident_same]

end

theorem Tally.add_eq (t : Tally) (part : ReleasePart) : t.add part = match part with
    | .opened => { t with opened := t.opened + 1 }
    | .faulted => { t with faulted := t.faulted + 1 }
    | .reclaimed => { t with reclaimed := t.reclaimed + 1 } := by
  cases part <;> rfl

/-- Settles O48: each clause by the equations of its operation, purpose by purpose and phase by phase. -/
theorem strokesCompleteChangePhaseAndFault : Obligations.StrokesCompleteChangePhaseAndFault := by
  refine ⟨fun e v n => ?_, fun e v position n m => ?_, fun e v why n => ?_, fun e v n => ?_, fun e i v n h => ?_,
    fun e v n => ⟨vacate_slot e, vacate_noSlot e⟩, fun e v result leg fault abort n => ⟨?_, fun why => ⟨fun h => if_pos h, fun h => ?_⟩,
      fun part h => ⟨endReleaseOwner_none e part, fun k owner => ?_⟩⟩⟩
  · refine ⟨fun h moving => ?_, fun h waiting => ?_, fun h => completeStroke_open e h, fun h => ⟨fun below => ?_, fun above => ?_⟩,
      fun h => completeStroke_testBack e h⟩
    · rw [completeStroke_close e h, if_neg moving]
      rfl
    · rw [completeStroke_close e h, if_pos waiting]
      rfl
    · rw [completeStroke_testOut e h, startTestBack_phase e (Valve.phaseAt_fine below)]
    · rw [completeStroke_testOut e h, startTestBack_phase e (Valve.phaseAt_coarse above)]
  · refine ⟨fun h => changePhase_stays e _ (Valve.newPhase_testOut position h), fun purpose image =>
      ⟨fun phase down => changePhase_turns e position (ph := .fine) ?_ image, fun phase down => changePhase_stays e _ ?_,
        fun phase up => changePhase_turns e position (ph := .coarse) ?_ image, fun phase up => changePhase_stays e _ ?_⟩⟩
    · rw [Valve.newPhase_coarse position purpose image phase, if_pos down]
    · rw [Valve.newPhase_coarse position purpose image phase, if_neg down]
    · rw [Valve.newPhase_fine position purpose image phase, if_pos up]
    · rw [Valve.newPhase_fine position purpose image phase, if_neg up]
  · exact ⟨faultStroke_close e why, faultStroke_open e why, faultStroke_test e why⟩
  · rw [stopStroke_eq, Valve.holdTarget_eq]
    rfl
  · have stops : ((n.valve v).without i).holders = [] ∧ ((n.valve v).without i).inCloseStroke = true ↔
        (n.valve v).holders.filter (fun k => decide (k ≠ i)) = [] ∧ (n.valve v).inStroke = true ∧ (n.valve v).purpose = .close :=
      and_congr_right fun _ => Valve.inCloseStroke_and _
    exact ⟨fun h' => (loseHolder_eq e h).trans (if_pos (stops.2 h')), fun h' => (loseHolder_eq e h).trans (if_neg (mt stops.1 h'))⟩
  · exact congrArg (fun d => raise e .testDone v d _) (testEnding_eq result leg)
  · exact if_neg (by rw [h]; decide)
  · have canonical := h.setValve v { n.valve v with releaseOwner := none }
    intro r counted
    have count : endReleaseOwner e v part n =
        if r.state = .releasing ∧ r.reopen - 1 = 0 then enterFree e k counted else counted := by
      rw [endReleaseOwner_some e part owner, countRelease_eq e part canonical, Tally.add_eq]
      rfl
    exact ⟨fun state last => count.trans (if_pos ⟨state, last⟩),
      fun stays => count.trans (if_neg fun ⟨state, last⟩ => stays.elim (· state) (· last))⟩

end Sys2Proof.Machine
end

section
/-! SUPPORT. How jobs queue, start, are dropped and complete, how a frame is pushed, and what a walk or a supply result leaves of its
incident (R84, R88, R97, R104 to R107, R113, R121, R129, R130). -/

namespace Sys2Proof.Machine

/-! ### Jobs that start or are dropped (R104, R105) -/

theorem dropsAtStart_iff (n : Net) (j : Job) :
    dropsAtStart n j = true ↔ ∃ i, j.incident = some i ∧ (n.incident i).state = .failed := by
  rw [dropsAtStart_eq]
  simp [Option.any_eq_true]

theorem setMarker_withJobs (j : Job) (m : Marker) (n : Net) (l : List Job) :
    setMarker j m { n with jobs := l } = { setMarker j m n with jobs := l } := by cases j <;> rfl

theorem setMarker_walker (j : Job) (m : Marker) (n : Net) : (setMarker j m n).walker = n.walker := by cases j <;> rfl

theorem setMarker_jobs (j : Job) (m : Marker) (n : Net) : (setMarker j m n).jobs = n.jobs := by cases j <;> rfl

/-- The jobs to start from are those given, whatever the queue holds. -/
theorem startFrom_withJobs (e : Env) (js l : List Job) (n : Net) : startFrom e js { n with jobs := l } = startFrom e js n := by
  induction js generalizing n with
  | nil => rfl
  | cons j js ih =>
    unfold startFrom
    rw [setMarker_withJobs, ih]
    rfl

section

variable (e : Env) {n : Net}

theorem startJobs_busy (h : n.walker ≠ none) : startJobs e n = n := if_pos (Option.isSome_iff_ne_none.2 h)

variable (idle : n.walker = none)
include idle

theorem startJobs_idle : startJobs e n = startFrom e n.jobs n := if_neg (by rw [idle]; decide)

theorem startJobs_none (h : n.jobs = []) : startJobs e n = n := by
  rw [startJobs_idle e idle, h]
  show { n with jobs := [] } = n
  rw [← h]

variable {j : Job} {js : List Job} (h : n.jobs = j :: js)
include h

/-- A job that is dropped leaves the next one to be considered. -/
theorem startJobs_drops (dropped : dropsAtStart n j = true) :
    startJobs e n = startJobs e (setMarker j .none { n with jobs := js }) := by
  rw [startJobs_idle e idle, h, startJobs_idle e (by rw [setMarker_walker]; exact idle), setMarker_jobs, setMarker_withJobs]
  exact (if_pos dropped).trans (startFrom_withJobs e js js _).symm

theorem startJobs_starts (kept : ¬ dropsAtStart n j = true) : startJobs e n = startJob e j { n with jobs := js } := by
  rw [startJobs_idle e idle, h]
  exact if_neg kept

end

/-- A job that is no BOUNDARY job above level 0 is marked RUNNING on the walker, and nothing else. -/
theorem startJob_plain (e : Env) {j : Job} (h : ∀ i level, j ≠ .boundary i (level + 1)) (n : Net) :
    startJob e j n = setMarker j .running { n with walker := some ⟨j, false⟩ } := by
  cases j with
  | boundary i level =>
    cases level with
    | zero => rfl
    | succ level => exact absurd rfl (h i level)
  | supply | adoptTopology | adoptSensors | crossCheck => rfl

theorem runningJob_iff (n : Net) (j : Job) : runningJob n = some j ↔ n.walker = some ⟨j, false⟩ := by
  unfold runningJob
  cases n.walker with
  | none => simp
  | some w =>
    obtain ⟨job, abandoned⟩ := w
    cases abandoned <;> simp

/-! ### The frame pushed (R129, R130) -/

theorem addSeed_eq (n : Net) (i : Nat) (seeds : List Nat) (x : Nat) : addSeed n i seeds x =
    if (n.node x).owner.map Owner.incident = some i ∨ x ∈ seeds then seeds else seeds ++ [x] := by
  unfold addSeed
  cases (n.node x).owner <;> simp

/-- The seeds of a pushed frame, taken end by end. -/
theorem seedsOf_eq (n : Net) (i : Nat) (causes : List Nat) : seedsOf n i causes =
    (causes.flatMap fun v => [(n.valve v).endA, (n.valve v).endB]).foldl (fun seeds x =>
      if (n.node x).owner.map Owner.incident = some i ∨ x ∈ seeds then seeds else seeds ++ [x]) [] := by
  unfold seedsOf
  simp only [addSeed_eq, List.foldl_flatMap, List.foldl_cons, List.foldl_nil]

/-- The incident with a frame pushed. -/
def Incident.pushed (r : Incident) (level : Nat) (seeds : List Nat) : Incident :=
  { r with
    frames := r.frames ++ [⟨level, r.pendingCauses.take 4, seeds, [], 0, 0, false⟩], depth := level
    generation := r.generation + 1, pendingCauses := r.pendingCauses.drop 4 }

theorem pushFrame_eq (e : Env) (i level : Nat) (n : Net) : pushFrame e i level n = raise e .escalated i level
    (n.setIncident i ((n.incident i).pushed level (seedsOf n i ((n.incident i).pendingCauses.take 4)))) := rfl

/-- What a raise writes in the record of its cause (R180). -/
theorem cause_raise {n : Net} (h : n.Canonical) (e : Env) (c : Cause) (subject detail : Nat) :
    (raise e c subject detail n).cause c.number = { n.cause c.number with
      flag := true, count := satInc (n.cause c.number).count, time := e.time, subject := BitVec.ofNat 32 subject
      detail := BitVec.ofNat 32 detail } := h.cause_setCause_same ..

/-! ### Walks and supply results applied (R88, R113) -/

section

variable {i : Nat} {n : Net}

theorem applyWalk_failed (h : (n.incident i).state = .failed) : applyWalk i n = n := if_pos h

/-- The survivor of a walk is CHECKING, its hold ended. -/
theorem incident_applyWalk (c : n.Canonical) (h : (n.incident i).state ≠ .failed) : (applyWalk i n).incident i =
    { (n.incident i).unheld with state := .checking, generation := (n.incident i).generation + 1 } := by
  unfold applyWalk
  rw [if_neg h]
  dsimp only
  split
  · exact c.incident_setIncident_same ..
  · exact (incident_noteIncident ..).trans (c.incident_setIncident_same ..)

end

/-- The incident with the result of its supply check noted (R88). -/
def Incident.cutNoted (r : Incident) (cut : List Nat) : Incident := { r with cutList := cut.take 4, cutCount := cut.length }

/-- The incident HELD for a reason (R88, R89). -/
def Incident.heldFor (r : Incident) (why : HoldReason) (timer : Option Time) : Incident :=
  { r with state := .held, holdReason := why, holdTimer := timer }

/-- An incident enters HELD: HELD is raised with the reason, and the notice given (R88, R89, R181). -/
def entersHeld (e : Env) (i : Nat) (why : HoldReason) (timer : Option Time) (n : Net) : Net :=
  noteIncident i (raise e .held i why.code (n.setIncident i ((n.incident i).heldFor why timer)))

section

variable (e : Env) (i : Nat) {n : Net}

/-- A POLICY hold runs a timer unless its expiry is 0 (R89). -/
theorem enterHeld_policy : enterHeld e i .policy n = entersHeld e i .policy
    (if (n.incident i).holdExpiry = 0 then none else some (e.time + BitVec.ofNat 32 (n.incident i).holdExpiry)) n := by
  unfold enterHeld entersHeld modIncident Incident.heldFor
  by_cases h : (n.incident i).holdExpiry = 0 <;> simp [h, startTimer]

theorem incident_entersHeld (c : n.Canonical) (why : HoldReason) (timer : Option Time) :
    (entersHeld e i why timer n).incident i = (n.incident i).heldFor why timer := by
  unfold entersHeld
  rw [incident_noteIncident, raise_incident, c.incident_setIncident_same]

variable {cut : List Nat}

theorem applySupply_cut (h : cut ≠ []) : applySupply e i cut n =
    entersHeld e i .supplyCut none (n.setIncident i ((n.incident i).cutNoted cut)) := if_pos h

variable (c : n.Canonical)
include c

theorem applySupply_uncut (h : cut = []) : applySupply e i cut n = match (n.incident i).policy with
    | .auto => enterClosing e i (n.setIncident i ((n.incident i).cutNoted cut))
    | .confirm => enterHeld e i .policy (n.setIncident i ((n.incident i).cutNoted cut)) := by
  have policy : ((n.setIncident i ((n.incident i).cutNoted cut)).incident i).policy = (n.incident i).policy := by
    rw [c.incident_setIncident_same]
    rfl
  rw [← policy]
  exact if_neg (not_not_intro h)

theorem applySupply_auto (h : cut = []) (policy : (n.incident i).policy = .auto) :
    applySupply e i cut n = enterClosing e i (n.setIncident i ((n.incident i).cutNoted cut)) := by
  rw [applySupply_uncut e i c h, policy]

theorem applySupply_confirm (h : cut = []) (policy : (n.incident i).policy = .confirm) : applySupply e i cut n =
    entersHeld e i .policy (if (n.incident i).holdExpiry = 0 then none
      else some (e.time + BitVec.ofNat 32 (n.incident i).holdExpiry)) (n.setIncident i ((n.incident i).cutNoted cut)) := by
  rw [applySupply_uncut e i c h, policy]
  dsimp only
  rw [enterHeld_policy, c.incident_setIncident_same]
  rfl

/-- What a supply result leaves of its incident: the cut nodes noted, and HELD for them, HELD by policy, or CLOSING or ISOLATED. -/
theorem incident_applySupply :
    let noted := (n.incident i).cutNoted cut
    let t := (applySupply e i cut n).incident i
    (cut ≠ [] → t = noted.heldFor .supplyCut none) ∧
    (cut = [] → (n.incident i).policy = .confirm → t = noted.heldFor .policy
      (if (n.incident i).holdExpiry = 0 then none else some (e.time + BitVec.ofNat 32 (n.incident i).holdExpiry))) ∧
    (cut = [] → (n.incident i).policy = .auto → t = noted.consented ∨
      t = { noted.consented with state := .isolated, timeIsolated := some e.time }) := by
  intro noted t
  have canonical : (n.setIncident i noted).Canonical := c.setIncident i noted
  have record : (n.setIncident i noted).incident i = noted := c.incident_setIncident_same i noted
  refine ⟨fun h => ?_, fun h policy => ?_, fun h policy => ?_⟩
  · rw [show t = _ from congrArg (Net.incident · i) (applySupply_cut e i h), incident_entersHeld e i canonical, record]
  · rw [show t = _ from congrArg (Net.incident · i) (applySupply_confirm e i c h policy), incident_entersHeld e i canonical, record]
  · have entered := (incident_enterClosing e i canonical).1
    rw [record, ← applySupply_auto e i c h policy] at entered
    exact entered

theorem applySupply_notes :
    ((applySupply e i cut n).incident i).cutList = cut.take 4 ∧ ((applySupply e i cut n).incident i).cutCount = cut.length := by
  obtain ⟨held, confirm, auto⟩ := incident_applySupply e i c (cut := cut)
  by_cases h : cut = []
  · cases policy : (n.incident i).policy with
    | confirm =>
      rw [confirm h policy]
      exact ⟨rfl, rfl⟩
    | auto =>
      rcases auto h policy with closing | isolated
      · rw [closing]
        exact ⟨rfl, rfl⟩
      · rw [isolated]
        exact ⟨rfl, rfl⟩
  · rw [held h]
    exact ⟨rfl, rfl⟩

end

/-! ### Completions as commands (R106, R107, R113, R121) -/

/-- The walk of a BOUNDARY job that completes, its marker NONE (R108 to R113). -/
def Net.completedWalk (n : Net) (e : Env) (i level : Nat) : Walk :=
  runWalk e i level (n.setIncident i { n.incident i with marker := .none })

theorem boundaryCompletion_running (e : Env) {n : Net} {i level : Nat} (h : runningJob n = some (.boundary i level)) :
    let w := n.completedWalk e i level
    boundaryCompletion e n =
      finishJob e (countCompleted (orderNotices w.incident w.folded (applyWalk w.incident w.net))) := by
  unfold boundaryCompletion
  rw [h]
  rfl

/-- A SUPPLY job that completes, its marker NONE: its result stale, applied or dropped (R97, R107, R121). -/
theorem supplyCompletion_running (e : Env) {n : Net} {i : Nat} {g : BitVec 16} (h : runningJob n = some (.supply i g)) :
    supplyCompletion e n = finishJob e (supplyResult e i g (n.setIncident i { n.incident i with marker := .none })) := by
  unfold supplyCompletion
  rw [h]
  rfl

theorem supplyResult_stale (e : Env) {i : Nat} {g : BitVec 16} {n : Net} (h : g ≠ (n.incident i).generation) :
    supplyResult e i g n = { n with jobsStale := min (n.jobsStale + 1) 65535 } := if_pos h

section

variable (e : Env) {i : Nat} {g : BitVec 16} {n : Net} (current : g = (n.incident i).generation)
include current

theorem supplyResult_applied (h : (n.incident i).state = .checking) :
    supplyResult e i g n = countCompleted (applySupply e i (newlyCut n i) n) :=
  (if_neg (not_not_intro current)).trans (if_pos h)

theorem supplyResult_dropped (h : (n.incident i).state ≠ .checking) : supplyResult e i g n = n :=
  (if_neg (not_not_intro current)).trans (if_neg h)

end

theorem completeAbandoned_running (e : Env) {n : Net} {j : Job} (h : n.walker = some ⟨j, true⟩) : completeAbandoned e n =
    startJobs e { n with walker := none, jobsAbandoned := min (n.jobsAbandoned + 1) 65535 } := by
  unfold completeAbandoned
  rw [h]
  rfl

/-- A completion of a job that does not run leaves the blocks (log 3). -/
theorem completions_idle (e : Env) (n : Net) :
    ((∀ i level, runningJob n ≠ some (.boundary i level)) → boundaryCompletion e n = n) ∧
    ((∀ i g, runningJob n ≠ some (.supply i g)) → supplyCompletion e n = n) ∧
    ((∀ j, n.walker ≠ some ⟨j, true⟩) → completeAbandoned e n = n) ∧
    (runningJob n ≠ some .adoptTopology → topologyCompletion e n = n) ∧
    (runningJob n ≠ some .adoptSensors → sensorsCompletion e n = n) ∧
    (runningJob n ≠ some .crossCheck → crossCompletion e n = n) := by
  refine ⟨fun h => ?_, fun h => ?_, fun h => ?_, fun h => ?_, fun h => ?_, fun h => ?_⟩
  · unfold boundaryCompletion
    split
    · next i level run => exact absurd run (h i level)
    · rfl
  · unfold supplyCompletion
    split
    · next i g run => exact absurd run (h i g)
    · rfl
  · unfold completeAbandoned
    split
    · next w walker =>
      refine if_neg fun abandoned => h w.job ?_
      rw [walker, ← abandoned]
    · rfl
  · unfold topologyCompletion
    split
    · next run => exact absurd run h
    · rfl
  · unfold sensorsCompletion
    split
    · next run => exact absurd run h
    · rfl
  · unfold crossCompletion
    split
    · next run => exact absurd run h
    · rfl

/-- A completion as a command is an event of the part (R106). -/
theorem exec_completion {s : State} (released : s.resetAsserted = false) {c : Instr} {f : Env → Net → Net}
    (hc : exec c s = .next (s.occur f)) {n : Net} (hf : f s.env s.net = n) :
    exec c s = .next { s with net := settle s.env n } := by
  rw [hc, occur_released released, ← hf]
  rfl

/-- Settles O50: each completion by the job that runs, the queue by its oldest job, the frame, the walk and the supply result by what
they write in their incident. -/
theorem walksAndSupplyChecksComplete : Obligations.WalksAndSupplyChecksComplete := by
  refine ⟨fun s released => ⟨fun i level h => ?_, fun i g h canonical => ?_, fun j h => ?_, fun settled => ?_⟩,
    fun e n => ⟨startJobs_busy e, startJobs_none e, fun j js idle jobs => ⟨fun dropped => ?_, fun kept => ⟨?_, ?_⟩⟩,
      fun j => rfl, rfl⟩,
    fun m i level g n => ⟨rfl, rfl, rfl, rfl, rfl, rfl, rfl, rfl, rfl, rfl⟩, fun e i level n c => ?_,
    fun n j => runningJob_iff n j, fun i n c => ⟨applyWalk_failed, incident_applyWalk c⟩, fun e i cut n c => ?_⟩
  · exact exec_completion released (f := boundaryCompletion) rfl (boundaryCompletion_running _ h)
  · intro r n
    have record : n.incident i = { r with marker := .none } := canonical.net.incident_setIncident_same ..
    have completed : ∀ {t}, supplyResult s.env i g n = t →
        exec .supplyJobCompletion s = .next { s with net := settle s.env (finishJob s.env t) } := fun ht =>
      exec_completion released (f := supplyCompletion) rfl ((supplyCompletion_running _ h).trans (congrArg _ ht))
    refine ⟨fun stale => completed (supplyResult_stale _ ?_), fun current state => completed (supplyResult_applied _ ?_ ?_),
      fun current state => completed (supplyResult_dropped _ ?_ ?_)⟩
    all_goals rw [record]; assumption
  · exact exec_completion released (f := completeAbandoned) rfl (completeAbandoned_running _ h)
  · intro unchanged
    have leaves : ∀ {c : Instr} {f : Env → Net → Net}, exec c s = .next (s.occur f) → f s.env s.net = s.net →
        exec c s = unchanged := fun hc hf => by
      rw [exec_completion released hc hf, settle_settled_net _ settled]
    obtain ⟨boundary, supply, abandoned, topology, sensors, cross⟩ := completions_idle s.env s.net
    exact ⟨fun h => leaves (f := boundaryCompletion) rfl (boundary h), fun h => leaves (f := supplyCompletion) rfl (supply h),
      fun h => leaves (f := completeAbandoned) rfl (abandoned h), fun h => leaves (f := topologyCompletion) rfl (topology h),
      fun h => leaves (f := sensorsCompletion) rfl (sensors h), fun h => leaves (f := crossCompletion) rfl (cross h)⟩
  · exact startJobs_drops e idle jobs ((dropsAtStart_iff n j).2 dropped)
  · rintro i level rfl
    rw [startJobs_starts e idle jobs (mt (dropsAtStart_iff n _).1 kept)]
    rfl
  · intro plain
    rw [startJobs_starts e idle jobs (mt (dropsAtStart_iff n j).1 kept), startJob_plain e plain]
  · intro r t causes ends mine seeds
    have own : t.incident i = r.pushed level seeds := by
      rw [show seeds = seedsOf n i causes from (seedsOf_eq n i causes).symm, show t = _ from pushFrame_eq e i level n,
        raise_incident, c.incident_setIncident_same]
    have raised := cause_raise (c.setIncident i (r.pushed level (seedsOf n i causes))) e .escalated i level
    exact ⟨own, fun j hj => c.incident_setIncident_other hj _, congrArg CauseRecord.flag raised,
      congrArg CauseRecord.subject raised, congrArg CauseRecord.detail raised, rfl⟩
  · intro r t noted held
    obtain ⟨cutHeld, confirmHeld, closes⟩ := incident_applySupply e i c (cut := cut)
    obtain ⟨cutList, cutCount⟩ := applySupply_notes e i c (cut := cut)
    refine ⟨applySupply_cut e i, fun h policy => ?_, fun h policy => applySupply_auto e i c h policy, cutList, cutCount,
      fun h => ?_, fun h policy => ?_, fun h policy => ?_⟩
    · rw [applySupply_confirm e i c h policy]
      rfl
    · have whole := cutHeld h
      exact ⟨congrArg Incident.state whole, congrArg Incident.holdReason whole, congrArg Incident.holdTimer whole⟩
    · have whole := confirmHeld h policy
      exact ⟨congrArg Incident.state whole, congrArg Incident.holdReason whole, congrArg Incident.holdTimer whole⟩
    · exact (closes h policy).imp (congrArg Incident.state ·) (congrArg Incident.state ·)

end Sys2Proof.Machine
end

section
/-! SUPPORT. What a handback compares with memory's command, and what it leaves of the valve (R115, R142, R164; log 34). -/

namespace Sys2Proof.Machine

/-! ### What the stored report shows (R142) -/

section

variable {x : Valve} (p : Params)

/-- Without a stored report neither end is confirmed. -/
theorem Valve.unconfirmed_of_noReport (h : x.report = none) : x.confirmedClosed p = false ∧ x.confirmedOpen p = false := by
  simp [Valve.confirmedClosed, Valve.confirmedOpen, h]

variable {r : Report} (h : x.report = some r)
include h

theorem Valve.confirmedClosed_iff : x.confirmedClosed p = true ↔
    r.limitClosed = true ∨ (r.limitOpen = false ∧ r.position ≤ p.closedTolerance) := by
  simp [Valve.confirmedClosed, h]

theorem Valve.confirmedOpen_iff : x.confirmedOpen p = true ↔
    r.limitOpen = true ∨ (r.limitClosed = false ∧ 1000 - p.openTolerance ≤ r.position) := by
  simp [Valve.confirmedOpen, h]

end

/-! ### Handback (R164) -/

/-- Memory's command agrees with the valve when it is mirrored and its target is a valid one at the confirmed end of the valve. -/
theorem agreesWithMemory_iff (e : Env) (n : Net) (v : Nat) : agreesWithMemory e n v = true ↔
    (lookup ShadowWord.atReset e.shadow (4 * v)).mirrored = true ∧
    field (lookup ShadowWord.atReset e.shadow (4 * v)).word 0 10 ≤ 1000 ∧
    ((1000 - n.params.openTolerance ≤ field (lookup ShadowWord.atReset e.shadow (4 * v)).word 0 10 ∧
        (n.valve v).confirmedOpen n.params = true) ∨
      (field (lookup ShadowWord.atReset e.shadow (4 * v)).word 0 10 ≤ n.params.closedTolerance ∧
        (n.valve v).confirmedClosed n.params = true)) := by
  simp [agreesWithMemory, and_assoc]

/-- A valve that waits for the processor under a new HOLD image, whatever image it presented before (R115, R164; log 34). -/
def Valve.handedBack (x : Valve) (target : Nat) : Valve :=
  { x with
    control := .handbackPending, imageSeq := x.imageSeq + 1
    image := some ⟨target, 0, .none, x.imageSeq + 1, .hold, false⟩ }

/-- Without a stroke to stop, a handback is the comparison with memory alone. -/
theorem handback_resting (e : Env) {v : Nat} {n : Net} (resting : (n.valve v).inStroke = false) : handback e v n =
    if agreesWithMemory e n v then n.setValve v { n.valve v with control := .free, image := none }
    else raise e .handback v (n.valve v).motion.code (n.setValve v ((n.valve v).handedBack (n.valve v).holdTarget)) := by
  have still : (if (n.valve v).inStroke then stopStroke e v n else n) = n := if_neg (Bool.eq_false_iff.1 resting)
  unfold handback
  rw [still]
  rfl

/-- Settles O46: the handback by whether memory's command agrees, and the confirmed ends by the stored report. -/
theorem handbackComparesWithMemory : Obligations.HandbackComparesWithMemory := by
  refine ⟨fun e v n resting => ?_, fun x p => ⟨Valve.unconfirmed_of_noReport p, fun r stored =>
    ⟨Valve.confirmedClosed_iff p stored, Valve.confirmedOpen_iff p stored⟩⟩⟩
  refine ⟨fun agrees => ?_, fun differs => ?_⟩
  · exact (handback_resting e resting).trans (if_pos ((agreesWithMemory_iff e n v).2 agrees))
  · have waits := (handback_resting e resting).trans (if_neg (mt (agreesWithMemory_iff e n v).1 differs))
    exact waits.trans (congrArg (fun target => raise e .handback v (n.valve v).motion.code
      (n.setValve v ((n.valve v).handedBack target))) (Valve.holdTarget_eq (n.valve v)))

end Sys2Proof.Machine
end

section
/-! SUPPORT. The floods of the supply check as reachability, and what each of its two passes may enter and cross (R120, R121). -/

namespace Sys2Proof.Machine

/-! ### What a flood enters (R120) -/

/-- The SOURCE nodes that a pass may enter, from which its flood starts. -/
def Net.sources (n : Net) (p : Pass) : List Nat :=
  idsWhere (fun k x => x.tag = .adopted && x.kind = .source && p.node k) n.nodes

theorem entered_eq (n : Net) (p : Pass) :
    entered n p = flood n p (graphRounds n (n.sources p)) (n.sources p) ([] ++ n.sources p) := rfl

section

variable {n : Net} (h : n.Canonical) (p : Pass)
include h

theorem mem_sources (x : Nat) :
    x ∈ n.sources p ↔ (n.node x).tag = .adopted ∧ (n.node x).kind = .source ∧ p.node x = true := by
  refine (mem_idsWhere h.nodes (fun _ => rfl) x).trans ?_
  simp [Net.node, and_assoc]

theorem sources_nodup : (n.sources p).Nodup :=
  (idsWhere_rises (tableWf_iff.1 h.nodes).1).1.imp Nat.ne_of_lt

/-- A flood enters its sources and nothing that its pass does not reach, and leaves no edge to be crossed: the table lists an edge for
every round it can need. -/
theorem entered_closed :
    (∀ x ∈ n.sources p, x ∈ entered n p) ∧ (∀ x ∈ entered n p, p.Reaches n x) ∧
    ∀ x ∈ entered n p, ∀ d ∈ (n.node x).edges, p.crosses d = true → p.node d.far = true → d.far ∈ entered n p := by
  rw [entered_eq]
  refine flood_spec n p _ [] (n.sources p) (sources_nodup h p) (fun x hx => ?_) (fun x hx => nomatch hx) fun l distinct _ => ?_
  · obtain ⟨adopted, kind, enters⟩ := (mem_sources h p x).1 hx
    exact .source x adopted kind enters
  · exact Nat.add_le_add_left (edges_of_distinct n.nodes 0 (tableWf_iff.1 h.nodes).1 l distinct) _

theorem mem_entered (x : Nat) : x ∈ entered n p ↔ p.Reaches n x := by
  obtain ⟨starts, sound, closed⟩ := entered_closed h p
  refine ⟨sound x, fun reached => ?_⟩
  induction reached with
  | source x adopted kind enters => exact starts x ((mem_sources h p x).2 ⟨adopted, kind, enters⟩)
  | edge x d _ listed crosses enters ih => exact closed x ih d listed crosses enters

end

/-! ### The newly cut nodes (R121) -/

/-- The protected nodes that pass A enters and pass B does not, ascending. -/
theorem newlyCut_enumerates {n : Net} (h : n.Canonical) (i : Nat) : Enumerates (newlyCut n i) fun x =>
    (n.node x).tag = .adopted ∧ (n.node x).guarded = true ∧ (passA n i).Reaches n x ∧ ¬ (passB n).Reaches n x := by
  obtain ⟨rises, members⟩ := idsWhere_enumerates h.nodes (p := fun k x => x.tag = .adopted && x.guarded &&
    decide (k ∈ entered n (passA n i)) && !decide (k ∈ entered n (passB n))) fun _ => rfl
  refine ⟨rises, fun x => (members x).trans ?_⟩
  simp [Net.node, ← mem_entered h, and_assoc]

/-! ### The two passes (R120) -/

/-- A valve open by its state: not confirmed closed, and in no CLOSE stroke. -/
theorem closedByState_false_iff (n : Net) (v : Nat) : closedByState n v = false ↔
    (n.valve v).confirmedClosed n.params = false ∧ ¬ ((n.valve v).inStroke = true ∧ (n.valve v).purpose = .close) := by
  rw [closedByState, Bool.or_eq_false_iff, ← Valve.inCloseStroke_and, Bool.not_eq_true]

theorem passB_valve_iff (n : Net) (v : Nat) :
    (passB n).valve v = true ↔ closedByState n v = false ∧ (n.valve v).holders = [] := by
  simp [passB]

theorem Incident.unchecked_iff (r : Incident) (level : Nat) :
    r.unchecked level = true ↔ ∃ f, r.frames[level]? = some f ∧ f.checked = false := by
  unfold Incident.unchecked
  cases r.frames[level]? <;> simp

/-- Pass A takes a ground as unowned that nobody owns, or that the incident owns at the level of an unchecked frame. -/
theorem openInA_iff (i : Nat) (r : Incident) (o : Option Owner) : openInA i r o = true ↔
    o = none ∨ ∃ w f, o = some w ∧ w.incident = i ∧ r.frames[w.level]? = some f ∧ f.checked = false := by
  cases o with
  | none => simp [openInA]
  | some w => simp [openInA, Incident.unchecked_iff]

theorem heldUnchecked_iff (n : Net) (i v : Nat) : heldUnchecked n i v = true ↔
    (n.valve v).holders = [i] ∧ ∃ b, (n.incident i).entry v = some (false, b) := by
  unfold heldUnchecked
  rcases (n.incident i).entry v with _ | ⟨checked, b⟩ <;> simp

theorem passA_valve_planned {n : Net} {i v : Nat} (h : heldUnchecked n i v = true) :
    (passA n i).valve v = !closedByState n v := if_pos h

theorem passA_valve_other {n : Net} {i v : Nat} (h : ¬ heldUnchecked n i v = true) :
    (passA n i).valve v = (passB n).valve v := if_neg h

/-- Settles O53: the floods enter what their passes reach, and each pass by the owners, the holders and the states it looks at. -/
theorem supplyFloodsFindTheNewlyCutNodes : Obligations.SupplyFloodsFindTheNewlyCutNodes := by
  refine ⟨fun n i h => ?_, fun n i => ?_⟩
  · obtain ⟨rises, members⟩ := newlyCut_enumerates h i
    exact ⟨mem_entered h, members, rises⟩
  · refine ⟨fun x => Option.isNone_iff_eq_none, fun p => Option.isNone_iff_eq_none, fun v => ?_, fun x => openInA_iff .., fun p =>
      openInA_iff .., fun v planned => ?_, fun v other => passA_valve_other (mt (heldUnchecked_iff n i v).1 other)⟩
    · exact (passB_valve_iff n v).trans (and_congr_left' (closedByState_false_iff n v))
    · rw [passA_valve_planned ((heldUnchecked_iff n i v).2 planned), Bool.not_eq_true']
      exact closedByState_false_iff n v

end Sys2Proof.Machine
end

section
/-! SUPPORT. What each step of a merge writes, and the order in which a completion gives its incident notices (R116 to R118; log 24,
log 40). -/

namespace Sys2Proof.Machine

/-! ### The ground (R116) -/

/-- The owner of a ground of `i` that is re-owned to (j, level); any other ground stays as it is. -/
def reowned (i j level : Nat) : Option Owner → Option Owner
  | some w => if w.incident = i then some ⟨j, level⟩ else some w
  | none => none

theorem node_reown {n : Net} (h : n.Canonical) (i j level k : Nat) :
    (reown i j level n).node k = { n.node k with owner := reowned i j level (n.node k).owner } := by
  unfold reown Net.node
  dsimp only
  rw [lookup_mapTable h.nodes fun _ => rfl]
  obtain ⟨tag, kind, guarded, edges, _ | w⟩ := lookup Node.atReset n.nodes k <;> rfl

theorem pipe_reown {n : Net} (h : n.Canonical) (i j level k : Nat) :
    (reown i j level n).pipe k = { n.pipe k with owner := reowned i j level (n.pipe k).owner } := by
  unfold reown Net.pipe
  dsimp only
  rw [lookup_mapTable h.pipes fun _ => rfl]
  obtain ⟨tag, endA, endB, _ | w⟩ := lookup Pipe.atReset n.pipes k <;> rfl

theorem incident_modFrame {n : Net} (h : n.Canonical) (i level : Nat) (f : Frame → Frame) :
    (modFrame i level f n).incident i = { n.incident i with frames := (n.incident i).frames.modify level f } :=
  h.incident_setIncident_same ..

/-! ### The boundary valves (R116, R118) -/

theorem Incident.lists_iff (r : Incident) (v : Nat) :
    r.lists v = true ↔ ∃ f ∈ r.frames, ∃ b ∈ f.boundary, b.valve = v := by
  simp [Incident.lists]

theorem Incident.innermost_full_iff (r : Incident) :
    16 ≤ r.innermostSize ↔ ∃ f, r.frames[r.depth]? = some f ∧ 16 ≤ f.boundary.length := by
  unfold Incident.innermostSize Incident.outermost
  cases r.frames[r.depth]? <;> simp

/-- The holder bit of `i` on a valve passed over to `j`. -/
def passHolder (i j v : Nat) : Net → Net :=
  modValve v fun x => { x with holders := insertAsc j (x.holders.filter fun k => decide (k ≠ i)) }

section

variable (e : Env) (i : Nat) {j : Nat} {b : Boundary} {n : Net}

/-- The cases of a boundary valve: listed already by the survivor, without a place, or appended. -/
theorem foldValve_eq : foldValve e i j b n =
    if (n.incident j).lists b.valve then passHolder i j b.valve n
    else if 16 ≤ (n.incident j).innermostSize then foldOut e i b.valve (enterFailed e j .boundaryFull n)
    else passHolder i j b.valve
      (modFrame j (n.incident j).depth (fun f => { f with boundary := f.boundary ++ [b] }) n) := by
  unfold passHolder
  rw [← filter_bne]
  rfl

theorem foldOut_eq (v : Nat) : foldOut e i v n =
    if ((loseHolder e i v n).valve v).holders = [] then handback e v (loseHolder e i v n) else loseHolder e i v n := by
  unfold foldOut
  simp only [List.isEmpty_iff]

variable (unlisted : ¬ (n.incident j).lists b.valve = true)
include unlisted

theorem foldValve_joins (room : ¬ 16 ≤ (n.incident j).innermostSize) : foldValve e i j b n = passHolder i j b.valve
    (modFrame j (n.incident j).depth (fun f => { f with boundary := f.boundary ++ [b] }) n) := by
  rw [foldValve_eq, if_neg unlisted, if_neg room]

theorem foldValve_drops (full : 16 ≤ (n.incident j).innermostSize) :
    foldValve e i j b n = foldOut e i b.valve (enterFailed e j .boundaryFull n) := by
  rw [foldValve_eq, if_neg unlisted, if_pos full]

end

/-! ### The pending causes (R116, R118; log 24) -/

/-- The survivor's entry of a valve that is a pending cause, flagged failed. -/
def flagCause (j v : Nat) : Net → Net := modIncident j fun r => r.withFailed v true

theorem foldCause_eq (e : Env) (j v : Nat) {n : Net} (h : n.Canonical) : foldCause e j v n =
    if v ∈ (n.incident j).pendingCauses then flagCause j v n
    else if 8 ≤ (n.incident j).pendingCauses.length then enterFailed e j .causeOverflow (flagCause j v n)
    else modIncident j (fun r => { r with pendingCauses := r.pendingCauses ++ [v] }) (flagCause j v n) := by
  have flagged : (flagCause j v n).incident j = (n.incident j).withFailed v true := h.incident_setIncident_same ..
  have causes : ((flagCause j v n).incident j).pendingCauses = (n.incident j).pendingCauses := by rw [flagged]; rfl
  rw [← causes]
  rfl

/-! ### The origins and the plan (R116) -/

/-- Origins join while fewer than four are listed; those beyond are counted, which is seen in every sum that the count then joins. -/
theorem joinOrigins (l : List Origin) (s : Incident) : ∃ u,
    l.foldl Incident.joinOrigin s = { s with origins := s.origins ++ l.take (4 - s.origins.length), unlisted := u } ∧
    ∀ m, satAdd u m = min (s.unlisted + (l.length - (4 - s.origins.length)) + m) 65535 := by
  induction l generalizing s with
  | nil => exact ⟨s.unlisted, by simp, fun m => by simp [satAdd, Config.countLimit]⟩
  | cons o l ih =>
    rw [List.foldl_cons]
    by_cases room : s.origins.length < 4
    · have joined : s.joinOrigin o = { s with origins := s.origins ++ [o] } := if_pos room
      obtain ⟨u, all, counted⟩ := ih (s.joinOrigin o)
      rw [joined] at all counted
      have places : 4 - s.origins.length = 4 - (s.origins ++ [o]).length + 1 := by
        rw [List.length_append, List.length_singleton]
        omega
      refine ⟨u, ?_, fun m => ?_⟩
      · rw [joined, all, places, List.take_succ_cons]
        simp
      · rw [counted, places, List.length_cons, Nat.add_sub_add_right]
    · have beyond : s.joinOrigin o = { s with unlisted := satInc s.unlisted } := if_neg room
      obtain ⟨u, all, counted⟩ := ih (s.joinOrigin o)
      rw [beyond] at all counted
      have noPlace : 4 - s.origins.length = 0 := by omega
      refine ⟨u, ?_, fun m => ?_⟩
      · rw [beyond, all, noPlace]
        simp
      · rw [counted, noPlace, List.length_cons]
        simp only [satInc, Config.countLimit]
        omega

/-- A survivor with the origins of a folded incident, its innermost frame unchecked and its plan generation up. -/
def Incident.tookOver (s r : Incident) : Incident :=
  { s with
    origins := s.origins ++ r.origins.take (4 - s.origins.length)
    unlisted := min (s.unlisted + (r.origins.length - (4 - s.origins.length)) + r.unlisted) 65535
    frames := s.frames.modify s.depth (fun f => { f with checked := false }), generation := s.generation + 1 }

theorem foldPlan_eq (i j : Nat) (n : Net) :
    foldPlan i j n = noteIncident j (n.setIncident j ((n.incident j).tookOver (n.incident i))) := by
  obtain ⟨u, joined, counted⟩ := joinOrigins (n.incident i).origins (n.incident j)
  unfold foldPlan modIncident Incident.tookOver
  dsimp only
  rw [joined, ← counted]

theorem incident_foldPlan {n : Net} (h : n.Canonical) (i j k : Nat) :
    (foldPlan i j n).incident k = if k = j then (n.incident j).tookOver (n.incident i) else n.incident k := by
  rw [foldPlan_eq, incident_noteIncident, h.incident_setIncident]

/-! ### The folded incident (R117) -/

theorem noteIncident_jobs (i : Nat) (n : Net) : (noteIncident i n).jobs = n.jobs := by
  unfold noteIncident
  split <;> rfl

theorem noteIncident_cause (i : Nat) (n : Net) (k : Nat) : (noteIncident i n).cause k = n.cause k := by
  unfold noteIncident
  split <;> rfl

/-- A folded incident: FREE, without frames, jobs, causes or hold, naming the survivor. -/
def Incident.mergedWith (r : Incident) (j : Nat) : Incident := { r.freed with mergedInto := some j }

section

variable (e : Env) (i j : Nat) {n : Net}

theorem jobs_freeMerged : (freeMerged e i j n).jobs = n.jobs.filter fun q => decide (q.incident ≠ some i) := by
  refine (noteIncident_jobs ..).trans (List.filter_congr fun q _ => ?_)
  by_cases mine : q.incident = some i <;> simp [mine]

variable (h : n.Canonical)
include h

theorem incident_freeMerged (k : Nat) :
    (freeMerged e i j n).incident k = if k = i then (n.incident i).mergedWith j else n.incident k := by
  have canonical := ((Keeps.refl n).dropWaiting i).canonical h
  exact (incident_noteIncident ..).trans (canonical.incident_setIncident ..)

theorem cause_freeMerged : (freeMerged e i j n).cause 6 = { n.cause 6 with
    flag := true, count := satInc (n.cause 6).count, time := e.time, subject := BitVec.ofNat 32 i
    detail := BitVec.ofNat 32 (2 ^ 31 + j) } := by
  have canonical := (((Keeps.refl n).dropWaiting i).setIncident i ((n.incident i).mergedWith j)).canonical h
  exact (noteIncident_cause ..).trans (cause_raise canonical e .freed i (2 ^ 31 + j))

end

/-! ### The order of the incident notices (R117; log 40) -/

/-- The folded incidents whose notices are given, ascending. -/
theorem folded_given_enumerates (folded given : List Nat) :
    Enumerates ((insertAll folded []).filter fun k => decide (k ∈ given)) fun k => k ∈ folded ∧ k ∈ given := by
  refine ⟨(insertAll_rises folded List.Pairwise.nil).filter _, fun k => ?_⟩
  simp [mem_insertAll]

theorem orderNotices_incidents (s : Nat) (folded : List Nat) (n : Net) :
    (orderNotices s folded n).agenda.incidents = (if s ∈ n.agenda.incidents then [s] else []) ++
      (insertAll folded []).filter (fun k => decide (k ∈ n.agenda.incidents)) ++
      n.agenda.incidents.filter fun k => decide (k ≠ s ∧ k ∉ folded) := by
  have first : (s :: insertAll folded []).filter (fun k => decide (k ∈ n.agenda.incidents)) =
      (if s ∈ n.agenda.incidents then [s] else []) ++
        (insertAll folded []).filter fun k => decide (k ∈ n.agenda.incidents) := by
    rw [List.filter_cons]
    by_cases given : s ∈ n.agenda.incidents <;> simp [given]
  unfold orderNotices
  dsimp only
  rw [← first]
  refine congrArg _ (List.filter_congr fun k given => ?_)
  simp [given, mem_insertAll]

/-- Settles O52: the ground and the plan by what they leave of each entry, a boundary valve and a pending cause case by case, the
folded incident by its record, and the notices by their order. -/
theorem foldMovesAnIncidentIntoTheSurvivor : Obligations.FoldMovesAnIncidentIntoTheSurvivor := by
  refine ⟨fun e w j => ⟨rfl, fun i n => rfl⟩, fun e i j n h _ => ?_, fun e i j b n => ?_, fun e j v n h => ?_,
    fun e i j n h _ => ?_, fun s folded n _ => ?_⟩
  · intro r d moved ground beyond
    have moves : moved = reowned i j d := by
      funext o
      cases o <;> rfl
    have canonical : (reown i j d n).Canonical := ((Keeps.refl n).reown i j d).canonical h
    rw [moves]
    exact ⟨node_reown h i j d, pipe_reown h i j d, congrArg Incident.frames (incident_modFrame canonical ..),
      fun within => if_neg within, fun far => if_pos far⟩
  · intro s passed listed full dropped
    have lists := s.lists_iff b.valve
    have fills := s.innermost_full_iff
    have drops : ¬ listed → full → foldValve e i j b n = foldOut e i b.valve (enterFailed e j .boundaryFull n) :=
      fun unlisted filled => foldValve_drops e i (mt lists.1 unlisted) (fills.2 filled)
    refine ⟨fun h => (foldValve_eq e i).trans (if_pos (lists.2 h)), fun unlisted room =>
      foldValve_joins e i (mt lists.1 unlisted) (mt fills.1 room), fun unlisted filled held => ?_, fun unlisted filled unheld => ?_⟩
    · exact (drops unlisted filled).trans ((foldOut_eq e i b.valve).trans (if_neg held))
    · exact (drops unlisted filled).trans ((foldOut_eq e i b.valve).trans (if_pos unheld))
  · intro flagged causes
    have byCause := foldCause_eq e j v h
    refine ⟨fun known => byCause.trans (if_pos known), fun new full => ?_, fun new room => ?_⟩
    · rw [byCause, if_neg new, if_pos full]
      rfl
    · rw [byCause, if_neg new, if_neg (Nat.not_le.2 room)]
      rfl
  · intro r s room t u
    have raised := cause_freeMerged e i j h
    exact ⟨(incident_foldPlan h i j j).trans (if_pos rfl), fun k hk => (incident_foldPlan h i j k).trans (if_neg hk),
      (incident_freeMerged e i j h i).trans (if_pos rfl), fun k hk => (incident_freeMerged e i j h k).trans (if_neg hk),
      jobs_freeMerged e i j, congrArg CauseRecord.flag raised, congrArg CauseRecord.subject raised,
      congrArg CauseRecord.detail raised⟩
  · intro given t
    obtain ⟨rises, members⟩ := folded_given_enumerates folded given
    exact ⟨rfl, _, rises, members, orderNotices_incidents s folded n⟩

end Sys2Proof.Machine
end

section
/-! SUPPORT. How a stored report is judged in each motion, the end of a stroke for its purpose, reversal and advance (R135, R157 to R159,
R162, R163, R166, R169, R171). -/

namespace Sys2Proof.Machine

/-! ### The judgments by motion (R166) -/

/-- A breach is a seated held valve under control that shows itself open beyond the margin (R162). -/
theorem Valve.breached_iff (x : Valve) (p : Params) (position : Nat) : x.breached p position = true ↔
    x.control = .controlled ∧ x.holders ≠ [] ∧ x.seated = true ∧ ¬ x.confirmedClosed p = true ∧
      p.closedTolerance + p.breachMargin < position := by
  simp [Valve.breached, and_assoc]

section

variable (e : Env) {v : Nat} {r : Report} {n : Net}

theorem judgeReport_rest (h : (n.valve v).motion = .rest) : judgeReport e v r n =
    if (n.valve v).control = .free then n
    else if (n.valve v).breached n.params r.position then
      noteValve v true (raise e .valveFault v 6
        (modValve v (fun x => { x with motion := .fault, fault := .breach, health := .seized, seated := false }) n))
    else if (n.valve v).confirmedClosed n.params then modValve v (fun x => { x with seated := true }) n
    else n := by
  unfold judgeReport
  simp only [h]
  rfl

theorem judgeReport_waiting (h : (n.valve v).motion = .waiting) : judgeReport e v r n =
    if (n.valve v).endReached n.params r.position then completeStroke e v n else n := by
  unfold judgeReport
  simp only [h]

theorem judgeReport_issued (h : (n.valve v).motion = .issued) : judgeReport e v r n =
    if (n.valve v).endReached n.params r.position then completeStroke e v n else changePhase e v r.position n := by
  unfold judgeReport
  simp only [h]

theorem judgeReport_travel (h : (n.valve v).motion = .travel) : judgeReport e v r n =
    if (n.valve v).endReached n.params r.position then completeStroke e v n
    else if r.torque then faultStroke e v .torque n
    else if (n.valve v).reversed n.params r.position then faultStroke e v .reverse n
    else changePhase e v r.position (n.setValve v ((n.valve v).advanced n.params e.time r.position)) := by
  unfold judgeReport
  simp only [h]
  rfl

theorem judgeReport_fault_unheld (h : (n.valve v).motion = .fault) (unheld : (n.valve v).holders = []) :
    judgeReport e v r n =
      if (n.valve v).confirmedClosed n.params = true ∨ (n.valve v).confirmedOpen n.params = true
      then modValve v (fun x => { x with motion := .rest, purpose := .none }) n else n := by
  unfold judgeReport
  simp only [h, unheld, List.isEmpty_nil, if_true, Bool.or_eq_true]

theorem judgeReport_fault_held (h : (n.valve v).motion = .fault) (held : (n.valve v).holders ≠ []) :
    judgeReport e v r n = if (n.valve v).confirmedClosed n.params
      then raise e .lateClose v (n.valve v).fault.code
        (modValve v (fun x => { x with motion := .rest, purpose := .none, seated := true }) n)
      else n := by
  unfold judgeReport
  simp only [h, List.isEmpty_iff, if_neg held]

/-- In a stroke the end is judged first (R159, R166). -/
theorem judgeReport_ended (h : (n.valve v).motion = .waiting ∨ (n.valve v).motion = .issued ∨ (n.valve v).motion = .travel)
    (ended : (n.valve v).endReached n.params r.position = true) : judgeReport e v r n = completeStroke e v n := by
  rcases h with waiting | issued | travel
  · exact (judgeReport_waiting e waiting).trans (if_pos ended)
  · exact (judgeReport_issued e issued).trans (if_pos ended)
  · exact (judgeReport_travel e travel).trans (if_pos ended)

end

/-! ### The end of a stroke (R159, R169, R171) -/

section

variable {x : Valve} (p : Params) (position : Nat)

theorem Valve.endReached_close (h : x.purpose = .close) : x.endReached p position = x.confirmedClosed p := by
  unfold Valve.endReached
  simp only [h]

theorem Valve.endReached_open (h : x.purpose = .openUp) : x.endReached p position = x.confirmedOpen p := by
  unfold Valve.endReached
  simp only [h]

theorem Valve.endReached_testOut (h : x.purpose = .testOut) : x.endReached p position = true ↔
    x.motion ≠ .waiting ∧ position ≤ x.test.home - x.test.depth + p.closedTolerance := by
  unfold Valve.endReached TestRecord.target
  simp [h]

theorem Valve.endReached_testBack (h : x.purpose = .testBack) : x.endReached p position = true ↔
    x.test.home - p.closedTolerance ≤ position ∨ x.confirmedOpen p = true := by
  unfold Valve.endReached
  simp only [h, Bool.or_eq_true, decide_eq_true_eq]

end

/-! ### Reversal and advance (R157, R158; log 41) -/

theorem Valve.closingStroke_iff (x : Valve) : x.closingStroke = true ↔ x.purpose = .close ∨ x.purpose = .testOut := by
  simp [Valve.closingStroke]

/-- A valve whose reference is a position, its progress timer restarted (R157). -/
def Valve.progressed (x : Valve) (p : Params) (now : Time) (position : Nat) : Valve :=
  { x with reference := position, progress := some (now + BitVec.ofNat 32 p.progressWindow) }

section

variable {x : Valve} (p : Params) (now : Time) (position : Nat)

section

variable (closing : x.closingStroke = true)
include closing

theorem Valve.reversed_closing : x.reversed p position = true ↔ x.best + p.reverseTolerance < position := by
  unfold Valve.reversed
  rw [if_pos closing, decide_eq_true_eq]

theorem Valve.advanced_closing : x.advanced p now position =
    if position + p.progressStep ≤ x.reference then { x with best := min x.best position }.progressed p now position
    else { x with best := min x.best position } := by
  have kept : ∀ b, ({ x with best := b } : Valve).closingStroke = true := fun _ => closing
  unfold Valve.advanced
  simp only [closing, kept, if_true, decide_eq_true_eq]
  rfl

end

section

variable (opening : x.closingStroke = false)
include opening

theorem Valve.reversed_opening : x.reversed p position = true ↔ position + p.reverseTolerance < x.best := by
  unfold Valve.reversed
  rw [opening, if_neg Bool.false_ne_true, decide_eq_true_eq]

theorem Valve.advanced_opening : x.advanced p now position =
    if x.reference + p.progressStep ≤ position then { x with best := max x.best position }.progressed p now position
    else { x with best := max x.best position } := by
  have kept : ∀ b, ({ x with best := b } : Valve).closingStroke = false := fun _ => opening
  unfold Valve.advanced
  simp only [opening, kept, Bool.false_eq_true, if_false, decide_eq_true_eq]
  rfl

end

end

/-- Settles O47: each motion by the equation of its judgments, in their order, and the points of a stroke by its purpose and its
direction. -/
theorem storedReportIsJudgedByTheMotion : Obligations.StoredReportIsJudgedByTheMotion := by
  refine ⟨fun e v r n => ?_, fun x p now position => ?_⟩
  · intro x p closed breach ended t
    have breached : x.breached p r.position = true ↔ breach := x.breached_iff p r.position
    refine ⟨fun rest => ?_, judgeReport_ended e, fun waiting going => (judgeReport_waiting e waiting).trans (if_neg going),
      fun issued going => (judgeReport_issued e issued).trans (if_neg going), fun travel going => ?_,
      fun fault unheld => ?_, fun fault held => ?_⟩
    · have judged := judgeReport_rest e (r := r) rest
      refine ⟨fun free => judged.trans (if_pos free), fun breaks => ?_, fun owned shut => ?_, fun sound unshut => ?_⟩
      · have owned : ¬ x.control = .free := by rw [breaks.1]; decide
        exact judged.trans ((if_neg owned).trans (if_pos (breached.2 breaks)))
      · have sound : ¬ breach := fun ⟨_, _, _, unshut, _⟩ => unshut shut
        exact judged.trans ((if_neg owned).trans ((if_neg (mt breached.1 sound)).trans (if_pos shut)))
      · by_cases free : x.control = .free
        · exact judged.trans (if_pos free)
        · exact judged.trans ((if_neg free).trans ((if_neg (mt breached.1 sound)).trans (if_neg unshut)))
    · have judged := (judgeReport_travel e (r := r) travel).trans (if_neg going)
      refine ⟨fun torque => judged.trans (if_pos torque), fun calm back => ?_, fun calm onward => ?_⟩
      · exact judged.trans ((if_neg (Bool.eq_false_iff.1 calm)).trans (if_pos back))
      · exact judged.trans ((if_neg (Bool.eq_false_iff.1 calm)).trans (if_neg (Bool.eq_false_iff.1 onward)))
    · have judged := judgeReport_fault_unheld e (r := r) fault unheld
      exact ⟨fun atEnd => judged.trans (if_pos atEnd),
        fun unshut unopened => judged.trans (if_neg (not_or.2 ⟨unshut, Bool.eq_false_iff.1 unopened⟩))⟩
    · have judged := judgeReport_fault_held e (r := r) fault held
      exact ⟨fun shut => judged.trans (if_pos shut), fun unshut => judged.trans (if_neg unshut)⟩
  · intro closing restarted
    have direction : x.closingStroke = true ↔ closing := x.closingStroke_iff
    refine ⟨fun h => by rw [Valve.endReached_close p position h], fun h => by rw [Valve.endReached_open p position h],
      Valve.endReached_testOut p position, Valve.endReached_testBack p position, fun down => ?_, fun up => ?_⟩
    · have lowers := direction.2 down
      have advanced := Valve.advanced_closing p now position lowers
      exact ⟨Valve.reversed_closing p position lowers, fun nearer => advanced.trans (if_pos nearer),
        fun short => advanced.trans (if_neg (Nat.not_le.2 short))⟩
    · have opening : x.closingStroke = false := Bool.eq_false_iff.2 (mt direction.1 up)
      have advanced := Valve.advanced_opening p now position opening
      exact ⟨Valve.reversed_opening p position opening, fun nearer => advanced.trans (if_pos nearer),
        fun short => advanced.trans (if_neg (Nat.not_le.2 short))⟩

end Sys2Proof.Machine
end

section
/-! SUPPORT. RETRACT judged, the open cause it names, and what a retraction leaves: the holders, the claims and the frames (R82, R83, R98,
R137, R138; log 22). -/

namespace Sys2Proof.Machine

/-! ### The request judged (R137) -/

section

variable (e : Env) {i : Nat} {n : Net}

theorem requestRetract_badId (h : 8 ≤ i) : requestRetract e i n = refuse n .badId := if_pos h

variable (hi : i < 8)
include hi

theorem requestRetract_wrongState (h : (n.incident i).state ≠ .isolated) :
    requestRetract e i n = refuse n .wrongState (n.incident i).state.code :=
  (if_neg (Nat.not_le.2 hi)).trans (if_pos h)

variable (isolated : (n.incident i).state = .isolated)
include isolated

theorem requestRetract_nothing (h : (n.incident i).depth = 0) : requestRetract e i n = refuse n .nothingToRetract :=
  (if_neg (Nat.not_le.2 hi)).trans ((if_neg (not_not_intro isolated)).trans (if_pos h))

variable (deep : 0 < (n.incident i).depth) {f : Frame} (outermost : (n.incident i).frames[(n.incident i).depth]? = some f)
include deep outermost

/-- A frame to retract: what is left to judge is its cause list. -/
theorem requestRetract_frame : requestRetract e i n =
    (openCause n f).elim (accept (retractFrame e i f n) (retractCount e i f n)) fun v => refuse n .causeOpen v := by
  refine (if_neg (Nat.not_le.2 hi)).trans ((if_neg (not_not_intro isolated)).trans ((if_neg (Nat.ne_of_gt deep)).trans ?_))
  unfold Incident.outermost
  rw [outermost]
  dsimp only
  cases openCause n f <;> rfl

theorem requestRetract_causeOpen {v : Nat} (h : openCause n f = some v) : requestRetract e i n = refuse n .causeOpen v := by
  rw [requestRetract_frame e hi isolated deep outermost, h, Option.elim_some]

theorem requestRetract_taken (h : openCause n f = none) :
    requestRetract e i n = accept (retractFrame e i f n) (retractCount e i f n) := by
  rw [requestRetract_frame e hi isolated deep outermost, h, Option.elim_none]

end

/-! ### The open cause (R137) -/

/-- A search gives the first entry that is looked for. -/
theorem find?_first_iff {α : Type} {p : α → Bool} {l : List α} {v : α} :
    l.find? p = some v ↔ ∃ k, l[k]? = some v ∧ p v = true ∧ ∀ u ∈ l.take k, ¬ p u = true := by
  rw [List.find?_eq_some_iff_append]
  constructor
  · rintro ⟨found, before, after, rfl, passed⟩
    exact ⟨before.length, by simp, found, by simpa using passed⟩
  · rintro ⟨k, entry, found, passed⟩
    obtain ⟨hk, rfl⟩ := List.getElem?_eq_some_iff.1 entry
    exact ⟨found, l.take k, l.drop (k + 1), by simp, by simpa using passed⟩

/-- A cause valve that is not confirmed closed at REST. -/
theorem openCause_test_iff (n : Net) (v : Nat) :
    (!((n.valve v).confirmedClosed n.params && (n.valve v).motion = .rest)) = true ↔
      ¬ ((n.valve v).confirmedClosed n.params = true ∧ (n.valve v).motion = .rest) := by
  rw [Bool.not_eq_true', Bool.and_eq_false_iff, decide_eq_false_iff_not, Decidable.not_and_iff_or_not, Bool.not_eq_true]

/-! ### Holders of the valves (R83) -/

theorem Follows.vacate {m n : Net} (h : Follows m n) (e : Env) (v : Nat) : Follows m (vacate e v n) := by
  have left : Follows m { n with queue := n.queue.without v, slots := n.slots.filter (· != v) } :=
    h.free rfl rfl rfl rfl rfl rfl rfl rfl
  unfold Machine.vacate
  dsimp only
  split
  · exact left.arbitrate e
  · exact left

theorem Follows.stopStroke {m n : Net} (h : Follows m n) (e : Env) (v : Nat) : Follows m (stopStroke e v n) :=
  ((h.modValve v (f := Valve.stopped) rfl).noteValve v false).vacate e v

theorem Follows.openRequest {m n : Net} (h : Follows m n) (e : Env) (v : Nat) : Follows m (openRequest e v n) := by
  unfold Machine.openRequest
  split
  · exact h.joinQueue ..
  · exact h.joinQueue ..
  · exact h

/-- The part of a handback after the stop of a standing stroke: memory's command compared (R164). -/
def memoryCompared (e : Env) (v : Nat) (n : Net) : Net :=
  if agreesWithMemory e n v then modValve v (fun x => { x with control := .free, image := none }) n
  else raise e .handback v (n.valve v).motion.code (modValve v (fun x => { x with control := .handbackPending }.hold) n)

theorem handback_eq (e : Env) (v : Nat) (n : Net) :
    handback e v n = memoryCompared e v (if (n.valve v).inStroke then stopStroke e v n else n) := rfl

/-- Canonical tables, with every valve held as before. -/
structure Net.HeldAs (n n' : Net) : Prop where
  canonical : n'.Canonical
  holders : ∀ v, (n'.valve v).holders = (n.valve v).holders

theorem Net.HeldAs.trans {a b c : Net} (h : a.HeldAs b) (h' : b.HeldAs c) : a.HeldAs c :=
  ⟨h'.canonical, fun v => (h'.holders v).trans (h.holders v)⟩

section

variable {n : Net} (h : n.Canonical)
include h

theorem heldAs_of_follows {n' : Net} (f : Follows n n') : n.HeldAs n' := by
  obtain ⟨canonical, lasts⟩ := f.holds h
  exact ⟨canonical, fun v => (congrArg Valve.holders (lasts.valve v) :)⟩

theorem heldAs_modValve (v : Nat) {g : Valve → Valve} (hg : (g (n.valve v)).holders = (n.valve v).holders) :
    n.HeldAs (modValve v g n) := by
  refine ⟨h.setValve v _, fun u => ?_⟩
  unfold modValve
  rw [h.valve_setValve]
  split
  · next same => rw [same, hg]
  · rfl

theorem heldAs_memoryCompared (e : Env) (v : Nat) : n.HeldAs (memoryCompared e v n) := by
  unfold memoryCompared
  split
  · exact heldAs_modValve h v rfl
  · have waits : n.HeldAs (modValve v (fun x => { x with control := .handbackPending }.hold) n) := heldAs_modValve h v rfl
    exact ⟨waits.canonical.setCause .., waits.holders⟩

theorem heldAs_handback (e : Env) (v : Nat) : n.HeldAs (handback e v n) := by
  have stopped : n.HeldAs (if (n.valve v).inStroke then stopStroke e v n else n) := by
    split
    · exact heldAs_of_follows h ((Follows.refl n).stopStroke e v)
    · exact ⟨h, fun _ => rfl⟩
  rw [handback_eq]
  exact stopped.trans (heldAs_memoryCompared stopped.canonical e v)

theorem heldAs_letGo (e : Env) (owner : Option Nat) (v : Nat) : n.HeldAs (letGo e owner v n) := by
  unfold letGo
  split
  · have owned : n.HeldAs (modValve v (fun x => { x with releaseOwner := owner }) n) := heldAs_modValve h v rfl
    exact owned.trans (heldAs_of_follows owned.canonical ((Follows.refl _).openRequest e v))
  · exact heldAs_handback h e v

theorem heldAs_letGo_all (e : Env) (owner : Option Nat) (vs : List Nat) :
    n.HeldAs (vs.foldl (fun n v => letGo e owner v n) n) := by
  induction vs generalizing n with
  | nil => exact ⟨h, fun _ => rfl⟩
  | cons v vs ih =>
    have first := heldAs_letGo h e owner v
    exact first.trans (ih first.canonical)

theorem holders_loseHolder (e : Env) (i v u : Nat) : ((loseHolder e i v n).valve u).holders =
    if u = v then (n.valve v).holders.filter (fun k => decide (k ≠ i)) else (n.valve u).holders := by
  have canonical : (n.setValve v ((n.valve v).without i)).Canonical := h.setValve ..
  have taken : ((n.setValve v ((n.valve v).without i)).valve u).holders =
      if u = v then (n.valve v).holders.filter (fun k => decide (k ≠ i)) else (n.valve u).holders := by
    rw [h.valve_setValve]
    split <;> rfl
  rw [loseHolder_eq e h, ← taken]
  split
  · exact (heldAs_of_follows canonical ((Follows.refl _).stopStroke e v)).holders u
  · rfl

/-- A holder bit taken from each valve of a list is on none of them; a valve without the bit does not gain it. -/
theorem loseHolders_unheld (e : Env) (i : Nat) (vs : List Nat) (u : Nat) (lost : u ∈ vs ∨ i ∉ (n.valve u).holders) :
    i ∉ ((loseHolders e i vs n).valve u).holders := by
  induction vs generalizing n with
  | nil => exact lost.resolve_left (List.not_mem_nil)
  | cons v vs ih =>
    refine ih (((Keeps.refl n).loseHolder e i v).canonical h) ?_
    rw [holders_loseHolder h]
    by_cases same : u = v
    · exact .inr (by simp [same])
    · rw [if_neg same]
      exact lost.imp_left fun listed => (List.mem_cons.1 listed).resolve_left same

end

/-! ### Incidents left alone -/

theorem loseHolder_incident (e : Env) (i v : Nat) (n : Net) (j : Nat) : (loseHolder e i v n).incident j = n.incident j := by
  unfold loseHolder
  dsimp only
  split
  · exact aside_incident (aside_stopStroke ..) j
  · rfl

theorem memoryCompared_incident (e : Env) (v : Nat) (n : Net) (j : Nat) : (memoryCompared e v n).incident j = n.incident j := by
  unfold memoryCompared
  split <;> rfl

theorem handback_incident (e : Env) (v : Nat) (n : Net) (j : Nat) : (handback e v n).incident j = n.incident j := by
  rw [handback_eq, memoryCompared_incident]
  split
  · exact aside_incident (aside_stopStroke ..) j
  · rfl

theorem openRequest_incident (e : Env) (v : Nat) (n : Net) (j : Nat) : (openRequest e v n).incident j = n.incident j := by
  unfold openRequest
  split
  · exact aside_incident (aside_joinQueue ..) j
  · exact aside_incident (aside_joinQueue ..) j
  · rfl

theorem letGo_incident (e : Env) (owner : Option Nat) (v : Nat) (n : Net) (j : Nat) :
    (letGo e owner v n).incident j = n.incident j := by
  unfold letGo
  split
  · exact openRequest_incident ..
  · exact handback_incident ..

theorem loseHolders_incident (e : Env) (i : Nat) (vs : List Nat) (n : Net) (j : Nat) :
    (loseHolders e i vs n).incident j = n.incident j :=
  List.foldlRecOn (motive := fun m => m.incident j = n.incident j) vs _ rfl
    fun m same v _ => (loseHolder_incident e i v m j).trans same

theorem letGo_all_incident (e : Env) (owner : Option Nat) (vs : List Nat) (n : Net) (j : Nat) :
    (vs.foldl (fun n v => letGo e owner v n) n).incident j = n.incident j :=
  List.foldlRecOn (motive := fun m => m.incident j = n.incident j) vs _ rfl
    fun m same v _ => (letGo_incident e owner v m j).trans same

/-! ### Claims cleared (R82) -/

/-- A node's owner is cleared when it meets the test. -/
theorem node_clearOwners {n : Net} (h : n.Canonical) (p : Owner → Bool) (k : Nat) :
    (clearOwners p n).node k = { n.node k with owner := (n.node k).owner.filter fun o => !p o } := by
  unfold clearOwners noteSensors Net.node
  dsimp only
  rw [lookup_mapTable h.nodes fun _ => rfl]
  obtain ⟨tag, kind, guarded, edges, _ | w⟩ := lookup Node.atReset n.nodes k
  · rfl
  · cases hit : p w <;> simp [hit, Option.filter]

theorem pipe_clearOwners {n : Net} (h : n.Canonical) (p : Owner → Bool) (k : Nat) :
    (clearOwners p n).pipe k = { n.pipe k with owner := (n.pipe k).owner.filter fun o => !p o } := by
  unfold clearOwners noteSensors Net.pipe
  dsimp only
  rw [lookup_mapTable h.pipes fun _ => rfl]
  obtain ⟨tag, endA, endB, _ | w⟩ := lookup Pipe.atReset n.pipes k
  · rfl
  · cases hit : p w <;> simp [hit, Option.filter]

/-- A claim left after the clearing is one that the test does not meet. -/
theorem unmet_of_left {p : Owner → Bool} {o o' : Option Owner} (h : o' = o.filter fun w => !p w) {w : Owner} (left : o' = some w) :
    p w = false := by
  rw [h, Option.filter_eq_some_iff] at left
  simpa using left.2

/-- An owner that the test for a level does not meet is not of that level. -/
theorem not_of_level {i d : Nat} {o : Owner} (unmet : (o.incident == i && o.level == d) = false) :
    ¬ (o.incident = i ∧ o.level = d) := by
  rintro ⟨same, level⟩
  rw [same, level, beq_self_eq_true, beq_self_eq_true] at unmet
  exact absurd unmet (by decide)

/-! ### The retraction (R138; log 22) -/

/-- The valves without a holder, as the statements spell them. -/
theorem unheldValves_eq (n : Net) (vs : List Nat) : unheldValves n vs = vs.filter fun v => decide ((n.valve v).holders = []) :=
  List.filter_congr fun v _ => by rw [Bool.eq_iff_iff, List.isEmpty_iff, decide_eq_true_eq]

/-- A frame whose entries of some valves are not failed-flagged. -/
def Frame.unfailed (g : Frame) (causes : List Nat) : Frame :=
  { g with boundary := g.boundary.map fun b => if b.valve ∈ causes then { b with failed := false } else b }

/-- An incident without its outermost level, the failed flags of that level's cause valves cleared (R138). -/
def Incident.retracted (r : Incident) (causes : List Nat) : Incident :=
  { r with depth := r.depth - 1, frames := (r.frames.take r.depth).map fun g => g.unfailed causes }

theorem Frame.unfailed_nil (g : Frame) : g.unfailed [] = g := by
  simp [Frame.unfailed]

theorem Frame.unfailed_cons (g : Frame) (v : Nat) (causes : List Nat) :
    (g.unfailed [v]).unfailed causes = g.unfailed (v :: causes) := by
  unfold Frame.unfailed
  rw [List.map_map]
  refine congrArg (fun bs => { g with boundary := bs }) (List.map_congr_left fun b _ => ?_)
  by_cases same : b.valve = v <;> by_cases listed : b.valve ∈ causes <;> simp [same, listed]

/-- The flags of several valves cleared one after the other. -/
theorem withFailed_all (causes : List Nat) (r : Incident) : causes.foldl (fun r v => r.withFailed v false) r =
    { r with frames := r.frames.map fun g => g.unfailed causes } := by
  induction causes generalizing r with
  | nil => simp [Frame.unfailed_nil]
  | cons v causes ih =>
    have one : r.withFailed v false = { r with frames := r.frames.map fun g => g.unfailed [v] } := by
      simp [Incident.withFailed, Frame.unfailed]
    rw [List.foldl_cons, ih, one, List.map_map]
    exact congrArg (fun fs => { r with frames := fs }) (List.map_congr_left fun g _ => Frame.unfailed_cons g v causes)

/-- The valves of a frame without the incident's bit, and those left with no holder let go without a release owner. -/
def frameLetGo (e : Env) (i : Nat) (f : Frame) (n : Net) : Net :=
  (unheldValves (loseHolders e i (f.boundary.map Boundary.valve) n) (f.boundary.map Boundary.valve)).foldl
    (fun n v => letGo e none v n) (loseHolders e i (f.boundary.map Boundary.valve) n)

/-- The claims of the outermost level cleared after that. -/
def levelCleared (e : Env) (i : Nat) (f : Frame) (n : Net) : Net :=
  clearOwners (fun o => o.incident == i && o.level == (n.incident i).depth) (frameLetGo e i f n)

/-- The outermost frame dropped after that, the flags of its cause valves cleared. -/
def frameDropped (e : Env) (i : Nat) (f : Frame) (n : Net) : Net :=
  modIncident i (fun r => { r with frames := r.frames.take (n.incident i).depth, depth := (n.incident i).depth - 1 })
    (modIncident i (fun r => f.causes.foldl (fun r v => r.withFailed v false) r) (levelCleared e i f n))

theorem retractFrame_eq (e : Env) (i : Nat) (f : Frame) (n : Net) :
    retractFrame e i f n = raise e .retracted i ((n.incident i).depth - 1) (frameDropped e i f n) := rfl

section

variable (e : Env) (i : Nat) (f : Frame) {n : Net}

theorem levelCleared_incident (j : Nat) : (levelCleared e i f n).incident j = n.incident j :=
  (letGo_all_incident ..).trans (loseHolders_incident ..)

variable (h : n.Canonical)
include h

theorem frameLetGo_canonical : (frameLetGo e i f n).Canonical :=
  (heldAs_letGo_all (((Keeps.refl n).loseHolders e i _).canonical h) e none _).canonical

theorem levelCleared_canonical : (levelCleared e i f n).Canonical :=
  ((Keeps.refl _).clearOwners _).canonical (frameLetGo_canonical e i f h)

theorem frameDropped_canonical : (frameDropped e i f n).Canonical :=
  (((Keeps.refl _).modIncident i _).modIncident i _).canonical (levelCleared_canonical e i f h)

theorem incident_frameDropped (j : Nat) : (frameDropped e i f n).incident j =
    if j = i then (n.incident i).retracted f.causes else n.incident j := by
  have canonical := levelCleared_canonical e i f h
  unfold frameDropped modIncident
  rw [(canonical.setIncident ..).incident_setIncident, canonical.incident_setIncident_same, canonical.incident_setIncident,
    levelCleared_incident, levelCleared_incident]
  dsimp only
  rw [withFailed_all]
  unfold Incident.retracted
  rw [List.map_take]
  split <;> rfl

/-- The valves of the frame are without the incident's bit, and letting go gives it to none of them. -/
theorem frameLetGo_unheld {b : Boundary} (hb : b ∈ f.boundary) : i ∉ ((frameLetGo e i f n).valve b.valve).holders := by
  have canonical := ((Keeps.refl n).loseHolders e i (f.boundary.map Boundary.valve)).canonical h
  unfold frameLetGo
  rw [(heldAs_letGo_all canonical e none _).holders]
  exact loseHolders_unheld h e i _ _ (.inl (List.mem_map_of_mem hb))

/-- No claim of the level is left on a node. -/
theorem levelCleared_node {k : Nat} {o : Owner} (owner : ((levelCleared e i f n).node k).owner = some o) :
    ¬ (o.incident = i ∧ o.level = (n.incident i).depth) := by
  have left := congrArg Node.owner (node_clearOwners (frameLetGo_canonical e i f h)
    (fun o => o.incident == i && o.level == (n.incident i).depth) k)
  exact not_of_level (unmet_of_left left owner)

/-- No claim of the level is left on a pipe. -/
theorem levelCleared_pipe {k : Nat} {o : Owner} (owner : ((levelCleared e i f n).pipe k).owner = some o) :
    ¬ (o.incident = i ∧ o.level = (n.incident i).depth) := by
  have left := congrArg Pipe.owner (pipe_clearOwners (frameLetGo_canonical e i f h)
    (fun o => o.incident == i && o.level == (n.incident i).depth) k)
  exact not_of_level (unmet_of_left left owner)

end

/-- Settles O33: the request check by check, the open cause by the search for it, and the retraction part by part. -/
theorem retractRequest : Obligations.RetractRequest := by
  refine ⟨fun s w w0 w1 w2 ready live => ?_, fun n f => ?_, fun e i f n h => ?_⟩
  · have handed : judgeControl s.env 7 w0 w1 w2 s.net = requestRetract s.env w0.toNat s.net :=
      judgeControl_handed s.env (q := .retract) rfl w0 w1 w2 (.inr live)
    have refuses : ∀ why detail, s.net.Settled → requestRetract s.env w0.toNat s.net = refuse s.net why detail →
        exec (.retract w) s = .next (s.afterControl w 7 why detail (judgeAttn s.net)) :=
      fun why detail settled h => congrArg _ (controlWrite_refused ready settled w 7 why detail (handed.trans h))
    refine ⟨fun settled hi => refuses _ _ settled (requestRetract_badId _ hi),
      fun settled hi state => refuses _ _ settled (requestRetract_wrongState _ hi state),
      fun settled hi isolated flat => refuses _ _ settled (requestRetract_nothing _ hi isolated flat),
      fun f v settled hi isolated deep outer opened =>
        refuses _ _ settled (requestRetract_causeOpen _ hi isolated deep outer opened),
      fun f hi isolated deep outer closed => ?_⟩
    exact congrArg _ (controlWrite_answer ready w 7 _ (handed.trans (requestRetract_taken _ hi isolated deep outer closed)))
  · refine ⟨?_, fun v => ?_⟩
    · exact List.find?_eq_none.trans (forall₂_congr fun v _ => (not_congr (openCause_test_iff n v)).trans Decidable.not_not)
    · unfold openCause
      simp only [find?_first_iff, openCause_test_iff, Decidable.not_not]
  · intro r t valves lost unheld gone cleared
    have unheld_eq : unheldValves lost valves = unheld := unheldValves_eq lost valves
    have gone_eq : frameLetGo e i f n = gone := congrArg (List.foldl (fun n v => letGo e none v n) lost) unheld_eq
    have cleared_eq : levelCleared e i f n = cleared := congrArg _ gone_eq
    have records : ∀ j, t.incident j = if j = i then r.retracted f.causes else n.incident j := incident_frameDropped e i f h
    have retracted : t.incident i = r.retracted f.causes := (records i).trans (if_pos rfl)
    have frameCount := congrArg (fun r => r.frames.length) retracted
    have raised := cause_raise (frameDropped_canonical e i f h) e .retracted i (r.depth - 1)
    exact ⟨congrArg (fun l => (l.filter fun v => opensOnLoss lost v).length) unheld_eq, retracted,
      fun j hj => (records j).trans (if_neg hj), fun v => (congrArg (Net.valve · v) gone_eq :),
      fun k => (congrArg (Net.node · k) cleared_eq :), fun k => (congrArg (Net.pipe · k) cleared_eq :),
      (congrArg Net.queue gone_eq :), (congrArg Net.slots gone_eq :), (congrArg Net.agenda cleared_eq :), congrArg Incident.depth retracted,
      frameCount.trans ((List.length_map ..).trans (List.length_take ..)), (congrArg Incident.state retracted :),
      fun k o => levelCleared_node e i f h, fun k o => levelCleared_pipe e i f h, fun b => frameLetGo_unheld e i f h,
      congrArg CauseRecord.flag raised, congrArg CauseRecord.subject raised, congrArg CauseRecord.detail raised⟩

end Sys2Proof.Machine
end

section
/-! SUPPORT. Every command but a reset keeps the tables canonical, the slots within their number, and the walker at work while
jobs wait (R105, R150). -/

namespace Sys2Proof.Machine

section

variable {m : Net} {s : State} (h : Keeps m s.net)
include h

/-! ### Events -/

theorem Keeps.event {f : Env → Net → Net} (kept : ∀ e n, Keeps n (f e n)) : Keeps m (s.event f).net :=
  (h.trans (kept s.env s.net)).settle s.env

theorem Keeps.occur {f : Env → Net → Net} (kept : ∀ e n, Keeps n (f e n)) : Keeps m (s.occur f).net := by
  unfold State.occur
  split
  · exact h
  · exact h.event kept

/-! ### Accesses -/

/-- What the collection of record words leaves of the blocks is all of them. -/
theorem Keeps.collected {t : State} (same : s.Collects t) : Keeps m t.net := same.net ▸ h

theorem Keeps.takeRecord (r : RecordWord) (w : Word) : Keeps m (s.takeRecord r w).net := by
  cases r <;> simp only [State.takeRecord]
  case image => exact h.event fun e n => (Keeps.refl n).takeImageRecord e ..
  case sample => exact h.event fun e n => (Keeps.refl n).takeSample e ..
  case position => exact h.event fun e n => (Keeps.refl n).takePosition e ..
  case control =>
    simp only [State.takeControl]
    exact (h.judgeControl s.env ..).settle s.env

theorem Keeps.writeRecord (r : RecordWord) (a : Access) : Keeps m (s.writeRecord r a).net := by
  have turned : Keeps m (State.net { s.turnSlot r with port := .passed a }) :=
    (h.collected ((State.Collects.refl s).turnSlot r) :)
  have errs : ∀ why e n, Keeps n (busError r why a.master e n) := fun why e n => (Keeps.refl n).recordError ..
  unfold State.writeRecord
  dsimp only
  split
  · refine Keeps.event ?_ (errs _)
    split
    · exact turned
    · exact turned.collected ((State.Collects.refl _).setLatch r _)
  split
  · exact turned.collected ((State.Collects.refl _).setLatch r _)
  split
  · exact (turned.takeRecord r _).collected ((State.Collects.refl _).clearMarks r)
  · exact (turned.collected ((State.Collects.refl _).clearMarks r)).event (errs _)

theorem Keeps.writeCommand (v word : Nat) (a : Access) : Keeps m (s.writeCommand v word a).net := by
  unfold State.writeCommand
  split
  · unfold State.refuseWrite
    dsimp only
    split
    · exact h
    · exact Keeps.event (by exact h) fun e n => (Keeps.refl n).raise ..
  · unfold State.passWrite
    dsimp only
    split
    · exact Keeps.event (by exact h) fun e n => (Keeps.refl n).processorWrite ..
    · exact h

theorem Keeps.readCommand (v word : Nat) (a : Access) : Keeps m (s.readCommand v word a).net := by
  unfold State.readCommand
  dsimp only
  split
  · exact h
  split
  · exact Keeps.event (by exact h) fun e n => (Keeps.refl n).pickup ..
  · exact h

theorem Keeps.readReport (off : Nat) (a : Access) : Keeps m (s.readReport off a).net := by
  unfold State.readReport
  dsimp only
  split
  · exact Keeps.event (by exact h) fun _ n => (Keeps.refl n).clearLatches ..
  · exact h

/-- An access, wherever it falls. -/
theorem Keeps.takePlace (p : Place) (a : Access) : Keeps m (s.takePlace p a).net := by
  unfold State.takePlace
  split
  · exact h
  cases p with
  | record r =>
    dsimp only; split
    · exact h.writeRecord r a
    · exact h
  | command v word =>
    dsimp only; split
    · exact h.writeCommand v word a
    · exact h.readCommand v word a
  | report off =>
    dsimp only; split
    · exact h
    · exact h.readReport off a
  | outside => exact h

end

/-! ### Commands -/

/-- A command that is no access and none of the three about RESET_N and the time counter is an event that keeps them. -/
theorem exec_occurs {c : Instr} {s : State} (noAccess : accessOf s.anch c = none) (h1 : c ≠ .resetNAssert)
    (h2 : ∀ a l, c ≠ .resetNRelease a l) (h3 : c ≠ .timeCounterAdvance) :
    ∃ f : Env → Net → Net, exec c s = .next (s.occur f) ∧ ∀ e n, Keeps n (f e n) := by
  cases c with
  | resetNAssert => exact absurd rfl h1
  | resetNRelease a l => exact absurd rfl (h2 a l)
  | timeCounterAdvance => exact absurd rfl h3
  | sensorLossExpiry k => exact ⟨_, rfl, fun e n => (Keeps.refl n).expiry (.sensorLoss k.toNat) e⟩
  | sensorPersistenceExpiry k => exact ⟨_, rfl, fun e n => (Keeps.refl n).expiry (.sensorPersistence k.toNat) e⟩
  | cellPersistenceExpiry k => exact ⟨_, rfl, fun e n => (Keeps.refl n).expiry (.cellPersistence k.toNat) e⟩
  | holdExpiry i => exact ⟨_, rfl, fun e n => (Keeps.refl n).expiry (.hold i.toNat) e⟩
  | pickupTimerExpiry v => exact ⟨_, rfl, fun e n => (Keeps.refl n).expiry (.pickup v.toNat) e⟩
  | progressTimerExpiry v => exact ⟨_, rfl, fun e n => (Keeps.refl n).expiry (.progress v.toNat) e⟩
  | deadlineExpiry v => exact ⟨_, rfl, fun e n => (Keeps.refl n).expiry (.deadline v.toNat) e⟩
  | boundaryJobCompletion => exact ⟨_, rfl, fun e n => (Keeps.refl n).boundaryCompletion e⟩
  | supplyJobCompletion => exact ⟨_, rfl, fun e n => (Keeps.refl n).supplyCompletion e⟩
  | abandonedJobCompletion => exact ⟨_, rfl, fun e n => (Keeps.refl n).completeAbandoned e⟩
  | topologyValidationCompletion => exact ⟨_, rfl, fun e n => (Keeps.refl n).topologyCompletion e⟩
  | sensorValidationCompletion => exact ⟨_, rfl, fun e n => (Keeps.refl n).sensorsCompletion e⟩
  | crossCheckCompletion => exact ⟨_, rfl, fun e n => (Keeps.refl n).crossCompletion e⟩
  | _ => exact nomatch noAccess

/-- A command leaves the device-reset state of the blocks, or keeps what it finds of the three properties. -/
theorem exec_keeps {c : Instr} {s t : State} (run : exec c s = .next t) : t.net = State.reset.net ∨ Keeps s.net t.net := by
  have refl := Keeps.refl s.net
  by_cases h1 : c = .resetNAssert
  · subst h1; cases run; exact .inl rfl
  by_cases h2 : ∃ a l, c = .resetNRelease a l
  · obtain ⟨a, l, rfl⟩ := h2; cases run; exact .inl rfl
  by_cases h3 : c = .timeCounterAdvance
  · subst h3; cases run
    split
    · exact .inr refl
    · exact .inr refl.expireAll
  cases access : accessOf s.anch c with
  | some a =>
    cases (exec_access access).symm.trans run
    exact .inr (refl.takePlace _ a)
  | none =>
    obtain ⟨f, occurs, kept⟩ := exec_occurs access h1 (fun a l h => h2 ⟨a, l, h⟩) h3
    cases occurs.symm.trans run
    exact .inr (refl.occur kept)

/-- A step leaves the device-reset state of the blocks, or keeps what it finds of the three properties. -/
theorem step_keeps {s t : State} (run : step s = .next t) : t.net = State.reset.net ∨ Keeps s.net t.net := by
  unfold step at run
  split at run
  · cases run; exact .inr (Keeps.refl _)
  · next c rest _ => exact exec_keeps (s := { s with pending := rest }) run

/-- Settles O57: a reset leaves no valve in a slot, and every other command keeps the number of the slots. -/
theorem atMostTwelveStrokeSlots : Obligations.AtMostTwelveStrokeSlots := by
  intro s t within run
  rcases step_keeps run with blocks | kept
  · rw [blocks]
    exact Nat.zero_le 12
  · exact kept.slots within

end Sys2Proof.Machine
end

section
/-! SUPPORT. Position reports refused, counted as repeats, or stored and judged (R141, R142, R145, R166). -/

namespace Sys2Proof.Machine

/-- A position above 1000 or both limits set (R141). -/
def PositionBad (w0 : Word) : Prop := 1000 < field w0 0 11 ∨ (flagBit w0 16 = true ∧ flagBit w0 17 = true)

section

variable (e : Env) {v : Nat} {w0 : Word} (w1 : Word) {n : Net}

theorem takePosition_slotMismatch (other : field w1 0 11 ≠ v) : takePosition e v w0 w1 n =
    recordError e .position .slotMismatch { slot := some v, id := some (field w1 0 11) } n :=
  if_pos other

variable (own : field w1 0 11 = v)
include own

theorem takePosition_fieldRange (bad : PositionBad w0) : takePosition e v w0 w1 n =
    recordError e .position .fieldRange { slot := some v, id := some (field w1 0 11) } n :=
  (if_neg (not_not_intro own)).trans (if_pos bad)

variable (good : ¬ PositionBad w0)
include good

theorem takePosition_noEntry (empty : (n.valve v).tag = .empty) : takePosition e v w0 w1 n =
    recordError e .position .noEntry { slot := some v, id := some (field w1 0 11) } n :=
  (if_neg (not_not_intro own)).trans ((if_neg good).trans (if_pos empty))

variable (listed : (n.valve v).tag ≠ .empty)
include listed

/-- A report with the stored sequence number only counts (R142). -/
theorem takePosition_repeated
    (repeated : ∃ q, (n.valve v).report = some q ∧ q.sequence = BitVec.ofNat 16 (field w1 16 16)) :
    takePosition e v w0 w1 n = n.setValve v { n.valve v with repeats := min ((n.valve v).repeats + 1) 65535 } := by
  have same : (n.valve v).report.any (fun r => r.sequence = BitVec.ofNat 16 (field w1 16 16)) = true := by
    simpa [Option.any_eq_true] using repeated
  exact (if_neg (not_not_intro own)).trans ((if_neg good).trans ((if_neg listed).trans (if_pos same)))

theorem takePosition_stored
    (fresh : ¬ ∃ q, (n.valve v).report = some q ∧ q.sequence = BitVec.ofNat 16 (field w1 16 16)) :
    takePosition e v w0 w1 n =
      let r : Report := ⟨field w0 0 11, flagBit w0 16, flagBit w0 17, flagBit w0 18, BitVec.ofNat 16 (field w1 16 16), e.time⟩
      judgeReport e v r (noteValve v false (n.setValve v { n.valve v with report := some r })) := by
  have other : ¬ (n.valve v).report.any (fun r => r.sequence = BitVec.ofNat 16 (field w1 16 16)) = true := by
    simpa [Option.any_eq_true] using fresh
  exact (if_neg (not_not_intro own)).trans ((if_neg good).trans ((if_neg listed).trans (if_neg other)))

end

/-- Settles O42: the checks of a report in their order, and the stored report as it is judged. -/
theorem positionReportIsRefusedRepeatedOrStored : Obligations.PositionReportIsRefusedRepeatedOrStored := by
  intro s slot w0 w1 m ready v x id position bad r repeated after refused
  have taken : ∀ {k}, settle s.env (takePosition s.env v w0 w1 s.net) = k → after k := fun h =>
    (exec_positionReport ready w1 m).trans (congrArg (fun n => Host.Outcome.next (s.afterRecord (.position slot 1) w1 m n)) h)
  have refuses : ∀ {why}, s.net.Settled →
      takePosition s.env v w0 w1 s.net = recordError s.env .position why { slot := some v, id := some id } s.net → refused why :=
    fun settled h => taken ((congrArg _ h).trans (settle_recordError s.env settled ..))
  refine ⟨fun settled other => refuses settled (takePosition_slotMismatch _ _ other),
    fun settled own bad => refuses settled (takePosition_fieldRange _ _ own bad),
    fun settled own good empty => refuses settled (takePosition_noEntry _ _ own good empty),
    fun settled own good listed same => taken ?_, fun own good listed fresh => taken ?_⟩
  · rw [takePosition_repeated _ _ own good listed same]
    exact settle_setValve s.env settled v _
  · exact congrArg _ (takePosition_stored _ _ own good listed fresh)

end Sys2Proof.Machine
end

section
/-! SUPPORT. The coarse and fine rates of a valve (R152). -/

namespace Sys2Proof.Machine

/-- At least 1, and so 1 in place of 0. -/
theorem max_one_eq_ite (k : Nat) : max k 1 = if k = 0 then 1 else k := by
  split <;> omega

/-- Settles O43: the rates by their quotients, and the rates that the spec names by evaluating them. -/
theorem coarseAndFineRates : Obligations.CoarseAndFineRates := by
  intro x
  have coarse : ∀ {t}, x.strokeTime = t → x.coarseRate = max (10000 / t) 1 := fun h => by rw [Valve.coarseRate, h]
  have fine : ∀ {c d}, x.coarseRate = c → x.divisor = d → x.fineRate = max (c / d) 1 := fun hc hd => by
    rw [Valve.fineRate, hc, hd]
  have both : ∀ {t}, x.divisor = 4 → x.strokeTime = t →
      x.coarseRate = max (10000 / t) 1 ∧ x.fineRate = max (max (10000 / t) 1 / 4) 1 := fun hd ht =>
    ⟨coarse ht, fine (coarse ht) hd⟩
  refine ⟨max_one_eq_ite _, max_one_eq_ite _, coarse, coarse, fun slow wide => ?_, fun quarter =>
    ⟨both quarter, both quarter, both quarter, both quarter⟩⟩
  have quotient : 2 / x.divisor ≤ 1 := Nat.div_le_of_le_mul (by omega)
  rw [fine (coarse slow) rfl]
  exact Nat.max_eq_right quotient

end Sys2Proof.Machine
end

section
/-! SUPPORT. The three timers of a stroke, and what a fault of a stroke leaves (R155 to R157, R160; log 3, 4). -/

namespace Sys2Proof.Machine

/-! ### The timers (R155 to R157) -/

theorem Valve.inStroke_iff (x : Valve) : x.inStroke = true ↔ x.motion = .waiting ∨ x.motion = .issued ∨ x.motion = .travel := by
  simp [Valve.inStroke, or_assoc]

/-- A timer of a valve faults its stroke while the stroke stands and the timer is due, and does nothing else. -/
def timerFaults (e : Env) (v : Nat) (timer : Option Time) (why : FaultReason) (n : Net) : Net :=
  if (n.valve v).inStroke && timerDue timer e.time then faultStroke e v why n else n

theorem expirePickup_eq (e : Env) (v : Nat) (n : Net) :
    expirePickup e v n = timerFaults e v (n.valve v).pickup .noPickup n := rfl

theorem expireProgress_eq (e : Env) (v : Nat) (n : Net) :
    expireProgress e v n = timerFaults e v (n.valve v).progress .stalled n := rfl

theorem expireDeadline_eq (e : Env) (v : Nat) (n : Net) :
    expireDeadline e v n = timerFaults e v (n.valve v).deadline .overtime n := rfl

section

variable (e : Env) {v : Nat} {timer : Option Time} (why : FaultReason) {n : Net}

theorem timerFaults_due (moving : (n.valve v).inStroke = true) (due : timerDue timer e.time = true) :
    timerFaults e v timer why n = faultStroke e v why n :=
  if_pos (Bool.and_eq_true_iff.2 ⟨moving, due⟩)

theorem timerFaults_idle (idle : (n.valve v).inStroke = false ∨ timerDue timer e.time = false) :
    timerFaults e v timer why n = n :=
  if_neg (Bool.eq_false_iff.1 (Bool.and_eq_false_iff.2 idle))

end

section

variable {s : State} (released : s.resetAsserted = false) {x : Expiry}
include released

theorem expire_taken {t : Net} (taken : x.take s.env s.net = t) : s.expire x = { s with net := settle s.env t } := by
  rw [State.expire_net released, taken]

theorem expire_nothing (settled : s.net.Settled) (taken : x.take s.env s.net = s.net) :
    s.expire x = { s with net := judgeAttn s.net } := by
  rw [expire_taken released taken, settle_settled_net _ settled]

end

/-! ### What a fault leaves (R160) -/

/-- The fields of a valve that no handback and no end of a release or a test changes; the others are blanked. -/
def Valve.strokeSide (x : Valve) : Valve :=
  { x with control := .free, image := none, imageSeq := 0, releaseOwner := none, test := {} }

/-- What no handback of a resting valve and no end of a release or a test changes: the stroke side of the valve, the queue, the
slots and the record of the cause VALVE_FAULT. -/
structure Net.SameStroke (v : Nat) (n t : Net) : Prop where
  canonical : t.Canonical
  valve : (t.valve v).strokeSide = (n.valve v).strokeSide
  queue : t.queue = n.queue
  slots : t.slots = n.slots
  fault : t.cause 7 = n.cause 7

theorem Net.SameStroke.refl (v : Nat) {n : Net} (h : n.Canonical) : n.SameStroke v n := ⟨h, rfl, rfl, rfl, rfl⟩

section

variable {v : Nat} {n t : Net} (h : n.SameStroke v t)
include h

theorem Net.SameStroke.setValve {x : Valve} (same : x.strokeSide = (t.valve v).strokeSide) : n.SameStroke v (t.setValve v x) := by
  refine ⟨h.canonical.setValve v x, ?_, h.queue, h.slots, h.fault⟩
  rw [h.canonical.valve_setValve_same]
  exact same.trans h.valve

theorem Net.SameStroke.setIncident (i : Nat) (r : Incident) : n.SameStroke v (t.setIncident i r) :=
  ⟨h.canonical.setIncident i r, h.valve, h.queue, h.slots, h.fault⟩

theorem Net.SameStroke.noteIncident (i : Nat) : n.SameStroke v (noteIncident i t) := by
  unfold Machine.noteIncident
  split
  · exact h
  · exact ⟨{ h.canonical with }, h.valve, h.queue, h.slots, h.fault⟩

variable (e : Env)

theorem Net.SameStroke.raise (c : Cause) (other : c ≠ .valveFault) (subject detail : Nat) :
    n.SameStroke v (raise e c subject detail t) := by
  have number : 7 ≠ c.number := by
    cases c
    case valveFault => exact absurd rfl other
    all_goals decide
  exact ⟨h.canonical.setCause .., h.valve, h.queue, h.slots, (h.canonical.cause_setCause_other number _).trans h.fault⟩

theorem Net.SameStroke.countRelease (k : Nat) (part : ReleasePart) : n.SameStroke v (countRelease e k part t) := by
  rw [countRelease_eq e part h.canonical]
  have counted := h.setIncident k { t.incident k with
    reopen := (t.incident k).reopen - 1, tally := (t.incident k).tally.add part }
  split
  · exact ((counted.setIncident ..).raise e .freed (by decide) ..).noteIncident k
  · exact counted

theorem Net.SameStroke.endReleaseOwner (part : ReleasePart) : n.SameStroke v (endReleaseOwner e v part t) := by
  cases owner : (t.valve v).releaseOwner with
  | none => rw [endReleaseOwner_none e part owner]; exact h
  | some k =>
    rw [endReleaseOwner_some e part owner]
    refine (h.setValve ?_).countRelease e k part
    rfl

theorem Net.SameStroke.endTest (result : TestResult) (leg : Purpose) (why : FaultReason) (abort : AbortCause) :
    n.SameStroke v (endTest e v result leg why abort t) := by
  refine Net.SameStroke.raise (h.setValve ?_) e .testDone (by decide) ..
  rfl

theorem Net.SameStroke.handback (resting : (t.valve v).inStroke = false) : n.SameStroke v (handback e v t) := by
  rw [handback_resting e resting]
  split
  · exact h.setValve rfl
  · refine Net.SameStroke.raise (h.setValve ?_) e .handback (by decide) ..
    rfl

end

/-- A stroke without a purpose, which no run reaches, faults as a CLOSE stroke does (log 26). -/
theorem faultStroke_purposeless (e : Env) {v : Nat} (why : FaultReason) {n : Net} (h : (n.valve v).purpose = .none) :
    faultStroke e v why n = faulted e v why n := by
  unfold faultStroke
  simp only [h]
  rfl

/-- The valve of a stroke that faults, its timers stopped (R160). -/
def Valve.faulted (x : Valve) (why : FaultReason) : Valve :=
  { x.still with motion := .fault, fault := why, health := if why = .noPickup then x.health else .seized }

section

variable (e : Env) (v : Nat) (why : FaultReason) {n : Net} (h : n.Canonical)
include h

/-- The faulted valve stands in neither the queue nor a slot. -/
theorem faulted_apart : (faulted e v why n).Apart v ((n.valve v).faulted why) := by
  have kept := ((Keeps.refl n).setValve v ((n.valve v).faulted why)).raise e .valveFault v why.code
  have apart := vacate_apart ((kept.noteValve v true).canonical h) e v
  rw [valve_noteValve] at apart
  exact h.valve_setValve_same v ((n.valve v).faulted why) ▸ apart

theorem faulted_cause : (faulted e v why n).cause 7 = { n.cause 7 with
    flag := true, count := satInc (n.cause 7).count, time := e.time, subject := BitVec.ofNat 32 v
    detail := BitVec.ofNat 32 why.code } := by
  have left : (faulted e v why n).cause 7 = (raise e .valveFault v why.code (n.setValve v ((n.valve v).faulted why))).cause 7 :=
    aside_cause ((aside_vacate ..).trans (aside_noteValve ..)) 7
  exact left.trans (cause_raise (h.setValve ..) e .valveFault v why.code)

/-- What follows the fault for the purpose of the stroke leaves the fault as it stands. -/
theorem faultStroke_sameStroke : (faulted e v why n).SameStroke v (faultStroke e v why n) := by
  have apart := faulted_apart e v why h
  have fault := Net.SameStroke.refl v apart.canonical
  have rests : ∀ {t}, (faulted e v why n).SameStroke v t → (faulted e v why n).SameStroke v (handback e v t) := fun {t} same => by
    have motion : (t.valve v).motion = .fault :=
      (congrArg Valve.motion same.valve).trans (congrArg Valve.motion apart.valve)
    exact same.handback e (by simp [Valve.inStroke, motion])
  cases purpose : (n.valve v).purpose with
  | close => rw [faultStroke_close e why purpose]; exact fault
  | openUp => rw [faultStroke_open e why purpose]; exact rests (fault.endReleaseOwner e .faulted)
  | testOut => rw [faultStroke_test e why (.inl purpose)]; exact rests (fault.endTest e ..)
  | testBack => rw [faultStroke_test e why (.inr purpose)]; exact rests (fault.endTest e ..)
  | none => rw [faultStroke_purposeless e why purpose]; exact fault

end

/-- Settles O44: each timer by whether it is due, and a fault by what is left of it when its stroke has ended. -/
theorem strokeTimersFaultTheStroke : Obligations.StrokeTimersFaultTheStroke := by
  refine ⟨Valve.inStroke_iff, fun s valve released => ?_, fun e v why n h => ?_⟩
  · intro v x faulted unchanged
    have faults : ∀ {timer : Expiry} {why}, timer.take s.env s.net = faultStroke s.env v why s.net →
        .next (s.expire timer) = faulted why := fun taken => congrArg Host.Outcome.next (expire_taken released taken)
    have stays : ∀ {timer : Expiry}, s.net.Settled → timer.take s.env s.net = s.net → .next (s.expire timer) = unchanged :=
      fun settled taken => congrArg Host.Outcome.next (expire_nothing released settled taken)
    exact ⟨fun moving due => faults (timer := .pickup v) (timerFaults_due s.env .noPickup moving due),
      fun moving due => faults (timer := .progress v) (timerFaults_due s.env .stalled moving due),
      fun moving due => faults (timer := .deadline v) (timerFaults_due s.env .overtime moving due),
      fun settled => ⟨fun idle => stays (timer := .pickup v) settled (timerFaults_idle s.env .noPickup idle),
        fun idle => stays (timer := .progress v) settled (timerFaults_idle s.env .stalled idle),
        fun idle => stays (timer := .deadline v) settled (timerFaults_idle s.env .overtime idle)⟩⟩
  · intro x t
    have apart := faulted_apart e v why h
    have same := faultStroke_sameStroke e v why h
    have side : (t.valve v).strokeSide = (x.faulted why).strokeSide := same.valve.trans (congrArg Valve.strokeSide apart.valve)
    have raised := same.fault.trans (faulted_cause e v why h)
    exact ⟨congrArg Valve.motion side, (congrArg Valve.purpose side :), congrArg Valve.fault side, (congrArg Valve.health side :),
      congrArg Valve.pickup side, congrArg Valve.progress side, congrArg Valve.deadline side, same.slots ▸ apart.slot,
      same.queue ▸ apart.queue, congrArg CauseRecord.flag raised, congrArg CauseRecord.subject raised,
      congrArg CauseRecord.detail raised⟩

end Sys2Proof.Machine
end

section
/-! SUPPORT. The arbiter: which entry it grants, what a grant writes, the limits it keeps, and how a valve joins the queue (R145,
R147, R149 to R151, R153, R162, R170; log 21). -/

namespace Sys2Proof.Machine

/-! ### Eligible entries (R150) -/

/-- An entry is barred while its valve is large and three large valves hold slots. -/
theorem eligible_false_iff (n : Net) (v : Nat) : eligible n v = false ↔
    6 ≤ (n.valve v).diameter ∧ 3 ≤ n.slots.countP fun u => decide (6 ≤ (n.valve u).diameter) := by
  unfold eligible
  rw [Bool.or_eq_false_iff, Bool.not_eq_false', decide_eq_false_iff_not, Nat.not_lt]
  exact and_congr_left' decide_eq_true_iff

theorem firstEligible_eq_none {n : Net} {q : List Nat} (barred : ∀ v ∈ q, eligible n v = false) (passed : Nat) :
    firstEligible n q passed = none := by
  induction q generalizing passed with
  | nil => rfl
  | cons v q ih =>
    obtain ⟨first, rest⟩ := List.forall_mem_cons.1 barred
    exact (if_neg (Bool.eq_false_iff.1 first)).trans (ih rest _)

/-- The first eligible entry with the number of entries before it. -/
theorem firstEligible_eq_some {n : Net} {q : List Nat} {i v : Nat} (entry : q[i]? = some v) (free : eligible n v = true)
    (barred : ∀ u ∈ q.take i, eligible n u = false) (passed : Nat) : firstEligible n q passed = some (passed + i, v) := by
  induction q generalizing i passed with
  | nil => cases entry
  | cons u q ih =>
    cases i with
    | zero =>
      cases Option.some.inj entry
      exact if_pos free
    | succ i =>
      obtain ⟨first, rest⟩ := List.forall_mem_cons.1 barred
      have found := ih entry rest (passed + 1)
      rw [Nat.add_assoc, Nat.add_comm 1] at found
      exact (if_neg (Bool.eq_false_iff.1 first)).trans found

/-! ### Grants (R150) -/

section

variable (e : Env) (k : Nat) {n : Net}

theorem grantUpTo_full (full : 12 ≤ n.slots.length) : grantUpTo e (k + 1) n = n :=
  if_neg (Nat.not_lt.2 full)

theorem grantUpTo_barred (none : firstEligible n n.queue.all 0 = none) : grantUpTo e (k + 1) n = n := by
  unfold grantUpTo
  rw [none]
  exact ite_self n

theorem grantUpTo_grants {passed v : Nat} (room : n.slots.length < 12)
    (first : firstEligible n n.queue.all 0 = some (passed, v)) :
    grantUpTo e (k + 1) n = grantUpTo e k (grant e v { n with passedOver := passed }) := by
  rw [grantUpTo, first]
  exact if_pos room

/-- A round of the arbiter stops or grants an eligible entry, and goes on. -/
theorem grantUpTo_cases (n : Net) :
    ((12 ≤ n.slots.length ∨ firstEligible n n.queue.all 0 = none) ∧ grantUpTo e (k + 1) n = n) ∨
    ∃ passed v, n.slots.length < 12 ∧ eligible n v = true ∧
      grantUpTo e (k + 1) n = grantUpTo e k (grant e v { n with passedOver := passed }) := by
  rcases Nat.lt_or_ge n.slots.length 12 with room | full
  · cases first : firstEligible n n.queue.all 0 with
    | none => exact .inl ⟨.inr rfl, grantUpTo_barred e k first⟩
    | some entry => exact .inr ⟨entry.1, entry.2, room, firstEligible_eligible first, grantUpTo_grants e k room first⟩
  · exact .inl ⟨.inl full, grantUpTo_full e k full⟩

end

theorem grant_eq (e : Env) (v : Nat) (n : Net) : grant e v n = noteValve v false (Net.setValve { n with
    queue := n.queue.without v, slots := n.slots ++ [v] } v ((n.valve v).granted n.params e.time)) := rfl

theorem StrokeQueue.without_eq (q : StrokeQueue) (v : Nat) : q.without v =
    ⟨q.close.filter fun u => decide (u ≠ v), q.openUp.filter fun u => decide (u ≠ v), q.test.filter fun u => decide (u ≠ v)⟩ := by
  rw [← filter_bne]
  rfl

/-! ### The limits (R150) -/

/-- No grant changes the size of a valve. -/
theorem large_grant {n : Net} (h : n.Canonical) (e : Env) (v u : Nat) : ((grant e v n).valve u).large = (n.valve u).large := by
  rw [valve_grant h]
  split
  · next same =>
    subst same
    exact (congrArg Valve.large (Valve.granted_lasting (n.valve u) n.params e.time) :)
  · rfl

theorem largeInSlots_grant {n : Net} (h : n.Canonical) (e : Env) (v : Nat) :
    largeInSlots (grant e v n) = largeInSlots n + if (n.valve v).large then 1 else 0 := by
  unfold largeInSlots
  simp only [large_grant h, slots_grant, List.countP_append, List.countP_singleton]

/-- A grant of an eligible entry leaves at most three large valves in slots. -/
theorem largeInSlots_grant_le {n : Net} (h : n.Canonical) (e : Env) {v : Nat} (free : eligible n v = true)
    (few : largeInSlots n ≤ 3) : largeInSlots (grant e v n) ≤ 3 := by
  rw [largeInSlots_grant h]
  unfold eligible Config.maxLarge at free
  split
  · next large =>
    have room : largeInSlots n < 3 := by simpa [large] using free
    omega
  · exact few

theorem largeInSlots_grantUpTo_le (e : Env) (k : Nat) {n : Net} (h : n.Canonical) (few : largeInSlots n ≤ 3) :
    largeInSlots (grantUpTo e k n) ≤ 3 := by
  induction k generalizing n with
  | zero => exact few
  | succ k ih =>
    rcases grantUpTo_cases e k n with ⟨_, stops⟩ | ⟨passed, v, _, free, grants⟩
    · rw [stops]; exact few
    · have canonical : Net.Canonical { n with passedOver := passed } := { h with }
      rw [grants]
      exact ih (canonical.grant e v) (largeInSlots_grant_le canonical e free few)

/-- With as many rounds as there are free slots, the arbiter stops only at full slots or at a queue without an eligible entry. -/
theorem grantUpTo_stops (e : Env) (k : Nat) (n : Net) (rounds : 12 ≤ n.slots.length + k) :
    12 ≤ (grantUpTo e k n).slots.length ∨ firstEligible (grantUpTo e k n) (grantUpTo e k n).queue.all 0 = none := by
  induction k generalizing n with
  | zero => exact .inl rounds
  | succ k ih =>
    rcases grantUpTo_cases e k n with ⟨stopped, stops⟩ | ⟨passed, v, _, _, grants⟩
    · rw [stops]; exact stopped
    · rw [grants]
      refine ih _ ?_
      rw [slots_grant, List.length_append, List.length_singleton]
      dsimp only
      omega

/-! ### Joining the queue (R147, R149, R162) -/

section

variable (e : Env) {v : Nat} {n : Net}

theorem openRequest_joins (resting : (n.valve v).motion = .rest ∨ (n.valve v).motion = .fault) :
    openRequest e v n = joinQueue e v .openUp n := by
  unfold openRequest
  rcases resting with h | h <;> simp only [h]

theorem openRequest_ignored (moving : (n.valve v).motion ≠ .rest) (sound : (n.valve v).motion ≠ .fault) :
    openRequest e v n = n := by
  unfold openRequest
  cases motion : (n.valve v).motion with
  | rest => exact absurd motion moving
  | fault => exact absurd motion sound
  | waiting | issued | travel => rfl

end

/-! ### What a grant writes (R151, R153, R170) -/

/-- A valve under a new image of its purpose at the rate of a phase, awaiting pickup, with the pickup timer started. -/
def Valve.issued (x : Valve) (p : Params) (now : Time) (ph : Phase) (target : Nat) (source : Source) : Valve :=
  { x with
    phase := ph, imageSeq := x.imageSeq + 1
    image := some ⟨target, if ph = .fine then x.fineRate else x.coarseRate, x.purpose, x.imageSeq + 1, source, true⟩
    motion := .issued, control := .controlled, pickup := some (now + BitVec.ofNat 32 p.pickupTimeout), progress := none
    deadline := none, seated := false }

theorem Valve.phaseAt_eq (x : Valve) (unknown : Phase) : x.phaseAt unknown = match x.report with
    | some r => if r.position ≤ x.crossover then .fine else .coarse
    | none => unknown := by
  unfold Valve.phaseAt
  cases x.report <;> rfl

section

variable {x : Valve} (p : Params) (now : Time)

theorem Valve.granted_close (h : x.purpose = .close) : x.granted p now = x.issued p now (x.phaseAt .coarse) 0 .close := by
  unfold Valve.granted Valve.issued
  simp only [h, Valve.rate_eq]
  rfl

theorem Valve.granted_open (h : x.purpose = .openUp) : x.granted p now = x.issued p now (x.phaseAt .fine) 1000 .openUp := by
  unfold Valve.granted Valve.issued
  simp only [h, Valve.rate_eq]
  rfl

theorem Valve.granted_testOut (h : x.purpose = .testOut) :
    x.granted p now = x.issued p now .fine (x.test.home - x.test.depth) .test := by
  unfold Valve.granted Valve.issued
  simp only [h]
  rfl

end

/-- Settles O45: the limits by what each grant keeps, the entry granted by the search of the queue, and what a grant and a joining
write by their definitions, purpose by purpose. -/
theorem arbiterKeepsTheSlotLimits : Obligations.ArbiterKeepsTheSlotLimits := by
  refine ⟨fun e n h within => ?_, fun e n => ?_, fun e v n => ?_, fun e v n => ?_, fun x p now => ?_⟩
  · intro t
    have kept : t.slots.length ≤ 12 := grantUpTo_slots e 12 n within
    refine ⟨kept, largeInSlots_grantUpTo_le e 12 h, ?_⟩
    refine (grantUpTo_stops e 12 n (Nat.le_add_left ..)).imp (Nat.le_antisymm kept) fun none v queued => ?_
    exact (eligible_false_iff t v).1 (firstEligible_none none v queued)
  · intro q barred
    have bars : ∀ v, barred v → eligible n v = false := fun v => (eligible_false_iff n v).2
    refine ⟨rfl, rfl, fun k => ⟨fun stopped => ?_, fun passed v room entry free before => ?_⟩⟩
    · exact stopped.elim (grantUpTo_full e k)
        fun all => grantUpTo_barred e k (firstEligible_eq_none (fun v queued => bars v (all v queued)) 0)
    · have eligible : eligible n v = true := (Bool.not_eq_false _).mp (mt (eligible_false_iff n v).1 free)
      have first := firstEligible_eq_some entry eligible (fun u earlier => bars u (before u earlier)) 0
      rw [Nat.zero_add] at first
      exact grantUpTo_grants e k room first
  · intro left
    exact ⟨by rw [grant_eq, StrokeQueue.without_eq], n.queue.without_eq v, rfl⟩
  · exact ⟨rfl, rfl, rfl, openRequest_joins e, openRequest_ignored e⟩
  · intro issued near far
    refine ⟨fun h => ?_, fun h => ⟨fun close => ?_, fun away => ?_⟩, Valve.granted_testOut p now⟩
    · exact (Valve.granted_close p now h).trans (congrArg (fun ph => issued ph 0 .close) (x.phaseAt_eq .coarse))
    · exact Valve.phaseAt_fine close ▸ Valve.granted_open p now h
    · exact Valve.phaseAt_coarse away ▸ Valve.granted_open p now h

end Sys2Proof.Machine
end

section
/-! SUPPORT. The requests of valve exercise and service: TEST_VALVE and VALVE_SERVICE check by check, and how OUT of service ends a test
that stands (R167 to R169, R175, R176; log 39). -/

namespace Sys2Proof.Machine

/-! ### The checks (R167, R175) -/

theorem noValve_iff (n : Net) (v : Nat) : noValve n v = true ↔ ¬ (v < 2048 ∧ (n.valve v).tag = .adopted) := by
  refine ⟨fun unlisted ⟨inTable, adopted⟩ => ?_, fun unknown => noValve_unless ?_⟩
  · exact absurd unlisted (Bool.eq_false_iff.1 (noValve_of inTable adopted))
  · exact (Decidable.not_and_iff_or_not.1 unknown).imp_left Nat.not_lt.1

theorem not_within_iff {lo hi v : Nat} : within lo hi v = false ↔ v < lo ∨ hi < v := by
  rw [← Bool.not_eq_true, within_iff]
  omega

theorem Valve.busy_iff (x : Valve) : (!x.holders.isEmpty || x.motion != .rest || x.control != .free) = true ↔
    ¬ (x.holders = [] ∧ x.motion = .rest ∧ x.control = .free) := by
  simp only [Bool.or_eq_true, Bool.not_eq_true', List.isEmpty_eq_false_iff, bne_iff_ne, Decidable.not_and_iff_or_not, or_assoc]

/-- A control record that is accepted leaves the blocks of the acceptance, settled (R177, R178). -/
theorem controlWrite_accepted {s : State} {w0 w1 w2 : Word} (ready : s.ControlReady w0 w1 w2) (w : ControlWrite) (kind : BitVec 8)
    {m : Net} {detail : Nat} (taken : judgeControl s.env kind.toNat w0 w1 w2 s.net = accept m detail) :
    s.controlWrite w kind = s.afterControl w kind .accepted detail (settle s.env m) :=
  controlWrite_answer ready w kind (accept m detail) taken

/-! ### TEST_VALVE (R167 to R169) -/

/-- The checks of TEST_VALVE in their order (R167). -/
theorem requestTestValve_eq (e : Env) (v depth : Nat) (n : Net) : requestTestValve e v depth n =
    if ¬ (v < 2048 ∧ (n.valve v).tag = .adopted) then refuse n .badId
    else if depth < 20 ∨ 300 < depth then refuse n .badArgument
    else if ¬ ((n.valve v).holders = [] ∧ (n.valve v).motion = .rest ∧ (n.valve v).control = .free) then
      refuse n .busyValve (n.valve v).control.code
    else if (n.valve v).health = .outOfService then refuse n .outOfService
    else if (n.valve v).confirmedOpen n.params = false then refuse n .notOpen
    else if depth ≤ n.params.closedTolerance ∨ (n.valve v).storedPosition < depth then refuse n .badArgument
    else accept (startTest e v depth n) ((n.valve v).storedPosition - depth) := by
  simp only [requestTestValve, noValve_iff, Bool.not_eq_true', not_within_iff, Valve.busy_iff]

theorem Valve.storedPosition_eq {x : Valve} {r : Report} (stored : x.report = some r) : x.storedPosition = r.position := by
  simp only [Valve.storedPosition, stored]

/-- The home position of a test is that of the stored report (R169). -/
theorem startTest_stored (e : Env) {v : Nat} (depth : Nat) {n : Net} {r : Report} (stored : (n.valve v).report = some r) :
    startTest e v depth n = joinQueue e v .testOut (n.setValve v { n.valve v with
      test := { (n.valve v).test with depth := depth, home := r.position } }) := by
  have home : startTest e v depth n = joinQueue e v .testOut (n.setValve v { n.valve v with
    test := { (n.valve v).test with depth := depth, home := (n.valve v).storedPosition } }) := rfl
  rw [home, Valve.storedPosition_eq stored]

section

variable (e : Env) {v depth : Nat} {n : Net}

theorem requestTestValve_badId (unknown : ¬ (v < 2048 ∧ (n.valve v).tag = .adopted)) :
    requestTestValve e v depth n = refuse n .badId :=
  (requestTestValve_eq ..).trans (if_pos unknown)

variable (known : v < 2048 ∧ (n.valve v).tag = .adopted)
include known

theorem requestTestValve_badDepth (bad : depth < 20 ∨ 300 < depth) : requestTestValve e v depth n = refuse n .badArgument := by
  rw [requestTestValve_eq, if_neg (not_not_intro known), if_pos bad]

variable (ranged : ¬ (depth < 20 ∨ 300 < depth))
include ranged

theorem requestTestValve_busyValve
    (busy : ¬ ((n.valve v).holders = [] ∧ (n.valve v).motion = .rest ∧ (n.valve v).control = .free)) :
    requestTestValve e v depth n = refuse n .busyValve (n.valve v).control.code := by
  rw [requestTestValve_eq, if_neg (not_not_intro known), if_neg ranged, if_pos busy]

variable (idle : (n.valve v).holders = [] ∧ (n.valve v).motion = .rest ∧ (n.valve v).control = .free)
include idle

theorem requestTestValve_outOfService (out : (n.valve v).health = .outOfService) :
    requestTestValve e v depth n = refuse n .outOfService := by
  rw [requestTestValve_eq, if_neg (not_not_intro known), if_neg ranged, if_neg (not_not_intro idle), if_pos out]

variable (serving : (n.valve v).health ≠ .outOfService)
include serving

theorem requestTestValve_notOpen (unconfirmed : (n.valve v).confirmedOpen n.params = false) :
    requestTestValve e v depth n = refuse n .notOpen := by
  rw [requestTestValve_eq, if_neg (not_not_intro known), if_neg ranged, if_neg (not_not_intro idle), if_neg serving,
    if_pos unconfirmed]

variable (confirmed : (n.valve v).confirmedOpen n.params = true) {r : Report} (stored : (n.valve v).report = some r)
include confirmed stored

/-- A valve that may be tested: the depth against the closed tolerance and the stored position is left. -/
theorem requestTestValve_open : requestTestValve e v depth n =
    if depth ≤ n.params.closedTolerance ∨ r.position < depth then refuse n .badArgument
    else accept (startTest e v depth n) (r.position - depth) := by
  rw [requestTestValve_eq, if_neg (not_not_intro known), if_neg ranged, if_neg (not_not_intro idle), if_neg serving,
    if_neg (by rw [confirmed]; decide), Valve.storedPosition_eq stored]

theorem requestTestValve_tooDeep (bad : depth ≤ n.params.closedTolerance ∨ r.position < depth) :
    requestTestValve e v depth n = refuse n .badArgument :=
  (requestTestValve_open e known ranged idle serving confirmed stored).trans (if_pos bad)

theorem requestTestValve_taken (clear : n.params.closedTolerance < depth) (reaches : depth ≤ r.position) :
    requestTestValve e v depth n = accept (joinQueue e v .testOut (n.setValve v { n.valve v with
      test := { (n.valve v).test with depth := depth, home := r.position } })) (r.position - depth) := by
  rw [requestTestValve_open e known ranged idle serving confirmed stored,
    if_neg (not_or.2 ⟨Nat.not_le.2 clear, Nat.not_lt.2 reaches⟩), startTest_stored e depth stored]

end

/-- Settles O34: each check of the request by the first that stands in the way, the test by the stored position. -/
theorem testValveRequest : Obligations.TestValveRequest := by
  intro s w w0 w1 w2 ready live v depth x p known idle refused
  have handed : judgeControl s.env 8 w0 w1 w2 s.net = requestTestValve s.env v depth s.net :=
    judgeControl_handed s.env (q := .testValve) rfl w0 w1 w2 (.inr live)
  have refuses : ∀ {why detail}, s.net.Settled → requestTestValve s.env v depth s.net = refuse s.net why detail →
      refused why detail :=
    fun settled h => congrArg _ (controlWrite_refused ready settled w 8 _ _ (handed.trans h))
  have ranged : 20 ≤ depth → depth ≤ 300 → ¬ (depth < 20 ∨ 300 < depth) := by omega
  refine ⟨fun settled unknown => refuses settled (requestTestValve_badId _ unknown),
    fun settled known bad => refuses settled (requestTestValve_badDepth _ known bad),
    fun settled known least most busy => refuses settled (requestTestValve_busyValve _ known (ranged least most) busy),
    fun settled known least most idle out => refuses settled (requestTestValve_outOfService _ known (ranged least most) idle out),
    fun settled known least most idle serving unconfirmed =>
      refuses settled (requestTestValve_notOpen _ known (ranged least most) idle serving unconfirmed),
    fun r known least most idle serving confirmed stored =>
      ⟨fun settled bad => refuses settled (requestTestValve_tooDeep _ known (ranged least most) idle serving confirmed stored bad),
        fun clear reaches => ?_⟩⟩
  exact congrArg _ (controlWrite_accepted ready w 8
    (handed.trans (requestTestValve_taken _ known (ranged least most) idle serving confirmed stored clear reaches)))

/-! ### A valve apart from the queue and the slots, handed back and with its test ended (R161, R164, R168) -/

section

variable {n : Net} {v : Nat} {x : Valve} (h : n.Apart v x)
include h

theorem Net.Apart.setValve (y : Valve) : (n.setValve v y).Apart v y :=
  ⟨h.canonical.setValve v y, h.slot, h.queue, h.canonical.valve_setValve_same v y⟩

variable (e : Env)

theorem Net.Apart.raise (c : Cause) (subject detail : Nat) : (raise e c subject detail n).Apart v x :=
  ⟨h.canonical.setCause .., h.slot, h.queue, h.valve⟩

/-- A handback of a resting valve writes its control and its image alone (R164). -/
theorem Net.Apart.handback (resting : x.inStroke = false) :
    ∃ control image imageSeq, (handback e v n).Apart v { x with control := control, image := image, imageSeq := imageSeq } := by
  have valve := h.valve
  subst valve
  rw [handback_resting e resting]
  split
  · exact ⟨_, _, _, h.setValve _⟩
  · exact ⟨_, _, _, (h.setValve _).raise e ..⟩

/-- The end of a test writes the test record alone (R168). -/
theorem Net.Apart.endTest (result : TestResult) (leg : Purpose) (fault : FaultReason) (abort : AbortCause) :
    (endTest e v result leg fault abort n).Apart v { x with
      test := { x.test with result := result, leg := leg, fault := fault, abort := abort, time := e.time } } := by
  have valve := h.valve
  subst valve
  exact (h.setValve _).raise e ..

theorem cause_endTest (result : TestResult) (leg : Purpose) (fault : FaultReason) (abort : AbortCause) :
    ((endTest e v result leg fault abort n).cause 13).flag = true ∧
    ((endTest e v result leg fault abort n).cause 13).subject = BitVec.ofNat 32 v := by
  have raised := cause_raise (h.setValve { n.valve v with
    test := { (n.valve v).test with result := result, leg := leg, fault := fault, abort := abort, time := e.time } }).canonical
    e .testDone v (testEnding result leg)
  exact ⟨congrArg CauseRecord.flag raised, congrArg CauseRecord.subject raised⟩

end

/-- A valve written that then gives up its entry and its slot stands in neither (R150, R161). -/
theorem apart_of_vacated (e : Env) {v : Nat} {n : Net} (h : n.Canonical) (x : Valve) :
    (vacate e v (noteValve v false (n.setValve v x))).Apart v x := by
  have apart := vacate_apart (((Keeps.refl n).setValve v x |>.noteValve v false).canonical h) e v
  rwa [valve_noteValve, h.valve_setValve_same] at apart

theorem stopStroke_apart (e : Env) {n : Net} (h : n.Canonical) (v : Nat) : (stopStroke e v n).Apart v (n.valve v).stopped :=
  apart_of_vacated e h _

/-! ### OUT of service (R175) -/

theorem Valve.underTest_iff (x : Valve) : x.underTest = true ↔
    (x.motion = .waiting ∨ x.motion = .issued ∨ x.motion = .travel) ∧ (x.purpose = .testOut ∨ x.purpose = .testBack) := by
  simp only [Valve.underTest, Bool.and_eq_true, Bool.or_eq_true, decide_eq_true_eq, Valve.inStroke_iff]

/-- A valve taken out of service (R175). -/
def Valve.outOfService (x : Valve) : Valve := { x with health := .outOfService }

section

variable (e : Env) {v : Nat} {n : Net}

theorem serviceOut_untested (test : (n.valve v).underTest = false) :
    serviceOut e v n = n.setValve v (n.valve v).outOfService :=
  if_neg (Bool.eq_false_iff.1 test)

variable (test : (n.valve v).underTest = true)
include test

/-- A leg under way is stopped and the valve handed back, then the test ends (R175). -/
theorem serviceOut_moving (moving : (n.valve v).motion ≠ .waiting) :
    serviceOut e v n = endTest e v .aborted (n.valve v).purpose .none .serviceOut
      (handback e v (stopStroke e v (n.setValve v (n.valve v).outOfService))) := by
  unfold serviceOut
  simp only [abortTest, if_pos test, if_neg moving]
  rfl

/-- A leg that waits leaves the queue, then the test ends (R175). -/
theorem serviceOut_waiting (h : n.Canonical) (waiting : (n.valve v).motion = .waiting) :
    serviceOut e v n = endTest e v .aborted (n.valve v).purpose .none .serviceOut
      (vacate e v (noteValve v false (Net.setValve (n.setValve v (n.valve v).outOfService) v
        { (n.valve v).outOfService with motion := .rest, purpose := .none }))) := by
  unfold serviceOut modValve
  simp only [abortTest, if_pos test, if_pos waiting, h.valve_setValve_same]
  rfl

end

/-- The valve `x` of a test as OUT of service leaves it before the test ends: out of service and at rest, and after a wait with its
control and its image (R175). -/
structure Valve.Withdrawn (x y : Valve) : Prop where
  health : y.health = .outOfService
  motion : y.motion = .rest
  purpose : y.purpose = .none
  test : y.test = x.test
  waited : x.motion = .waiting → y.control = x.control ∧ y.image = x.image

/-- OUT of service withdraws the valve of a test from its stroke, and then ends the test ABORTED (R175). -/
theorem serviceOut_withdraws (e : Env) {v : Nat} {n : Net} (h : n.Canonical) (test : (n.valve v).underTest = true) :
    ∃ m y, serviceOut e v n = endTest e v .aborted (n.valve v).purpose .none .serviceOut m ∧ m.Apart v y ∧
      (n.valve v).Withdrawn y := by
  have out := h.setValve v (n.valve v).outOfService
  by_cases waiting : (n.valve v).motion = .waiting
  · exact ⟨_, { (n.valve v).outOfService with motion := .rest, purpose := .none }, serviceOut_waiting e test h waiting,
      apart_of_vacated e out _, ⟨rfl, rfl, rfl, rfl, fun _ => ⟨rfl, rfl⟩⟩⟩
  · have stopped := stopStroke_apart e out v
    rw [h.valve_setValve_same] at stopped
    obtain ⟨_, _, _, handed⟩ := stopped.handback e rfl
    exact ⟨_, _, serviceOut_moving e test waiting, handed, ⟨rfl, rfl, rfl, rfl, fun waits => absurd waits waiting⟩⟩

/-! ### VALVE_SERVICE (R175, R176; log 39) -/

/-- The checks of VALVE_SERVICE in the model's order (R175; log 39). -/
theorem requestValveService_eq (e : Env) (v direction : Nat) (n : Net) : requestValveService e v direction n =
    if ¬ (v < 2048 ∧ (n.valve v).tag = .adopted) then refuse n .badId
    else if direction < 1 ∨ 2 < direction then refuse n .badArgument
    else if (n.valve v).holders ≠ [] then refuse n .busyValve (n.valve v).control.code
    else accept (if direction = 1 then serviceOut e v n else serviceIn v n) (n.valve v).health.code := by
  simp only [requestValveService, noValve_iff, Bool.not_eq_true', not_within_iff, List.isEmpty_eq_false_iff]

section

variable (e : Env) {v : Nat} {w : Word} {n : Net}

theorem requestValveService_badId (unknown : ¬ (v < 2048 ∧ (n.valve v).tag = .adopted)) :
    requestValveService e v w.toNat n = refuse n .badId :=
  (requestValveService_eq ..).trans (if_pos unknown)

variable (known : v < 2048 ∧ (n.valve v).tag = .adopted)
include known

theorem requestValveService_badArgument (notOut : w ≠ 1) (notIn : w ≠ 2) :
    requestValveService e v w.toNat n = refuse n .badArgument := by
  have bad : w.toNat < 1 ∨ 2 < w.toNat := by bv_omega
  rw [requestValveService_eq, if_neg (not_not_intro known), if_pos bad]

variable (direction : w = 1 ∨ w = 2)
include direction

/-- A direction for an ADOPTED valve: the holders are left to check. -/
theorem requestValveService_directed : requestValveService e v w.toNat n =
    if (n.valve v).holders ≠ [] then refuse n .busyValve (n.valve v).control.code
    else accept (if w.toNat = 1 then serviceOut e v n else serviceIn v n) (n.valve v).health.code := by
  have good : ¬ (w.toNat < 1 ∨ 2 < w.toNat) := by rcases direction with rfl | rfl <;> decide
  rw [requestValveService_eq, if_neg (not_not_intro known), if_neg good]

theorem requestValveService_busyValve (held : (n.valve v).holders ≠ []) :
    requestValveService e v w.toNat n = refuse n .busyValve (n.valve v).control.code :=
  (requestValveService_directed e known direction).trans (if_pos held)

theorem requestValveService_taken (unheld : (n.valve v).holders = []) : requestValveService e v w.toNat n =
    accept (if w.toNat = 1 then serviceOut e v n else serviceIn v n) (n.valve v).health.code :=
  (requestValveService_directed e known direction).trans (if_neg (not_not_intro unheld))

end

/-- Settles O35: the request check by check, and a standing test by the withdrawal of its valve and the end of the test. -/
theorem valveServiceRequests : Obligations.ValveServiceRequests := by
  refine ⟨Valve.underTest_iff, fun s w c w0 w1 w2 service ready live => ?_, fun e v n h test => ?_⟩
  · intro v x known after
    have written : exec c s = .next (s.controlWrite w 9) := by rcases service with rfl | rfl <;> rfl
    have handed : judgeControl s.env 9 w0 w1 w2 s.net = requestValveService s.env v w1.toNat s.net :=
      judgeControl_handed s.env (q := .valveService) rfl w0 w1 w2 (.inr live)
    have refuses : ∀ {why detail}, s.net.Settled → requestValveService s.env v w1.toNat s.net = refuse s.net why detail →
        after why detail (judgeAttn s.net) := fun settled h =>
      written.trans (congrArg _ (controlWrite_refused ready settled w 9 _ _ (handed.trans h)))
    have accepts : ∀ {m k}, requestValveService s.env v w1.toNat s.net = accept m x.health.code → settle s.env m = k →
        after .accepted x.health.code k := fun h left => by
      subst left
      exact written.trans (congrArg _ (controlWrite_accepted ready w 9 (handed.trans h)))
    have out : w1 = 1 → known → x.holders = [] →
        requestValveService s.env v w1.toNat s.net = accept (serviceOut s.env v s.net) x.health.code := fun one known unheld =>
      (requestValveService_taken s.env known (.inl one) unheld).trans (by rw [one]; rfl)
    refine ⟨fun settled unknown => refuses settled (requestValveService_badId _ unknown),
      fun settled known notOut notIn => refuses settled (requestValveService_badArgument _ known notOut notIn),
      fun settled known direction held => refuses settled (requestValveService_busyValve _ known direction held),
      fun settled known one unheld test => accepts (out one known unheld) ?_,
      fun known one unheld _ => accepts (out one known unheld) rfl,
      fun settled known two unheld => accepts (m := serviceIn v s.net) ?_ (settle_setValve s.env settled v _)⟩
    · rw [serviceOut_untested s.env test]
      exact settle_setValve s.env settled v _
    · exact (requestValveService_taken s.env known (.inr two) unheld).trans (by rw [two]; rfl)
  · intro x t out aborted
    obtain ⟨m, y, ended, apart, withdrawn⟩ := serviceOut_withdraws e h test
    have final := apart.endTest e .aborted x.purpose .none .serviceOut
    obtain ⟨flag, subject⟩ := cause_endTest apart e .aborted x.purpose .none .serviceOut
    rw [← ended] at final flag subject
    have moving : x.motion = .issued ∨ x.motion = .travel → x.motion ≠ .waiting := by
      rintro (motion | motion) <;> rw [motion] <;> decide
    have tested := congrArg Valve.test final.valve
    rw [withdrawn.test] at tested
    refine ⟨fun motion => serviceOut_moving e test (moving motion), serviceOut_waiting e test h,
      (congrArg Valve.health final.valve).trans withdrawn.health, (congrArg Valve.motion final.valve).trans withdrawn.motion,
      (congrArg Valve.purpose final.valve).trans withdrawn.purpose, tested, final.slot, final.queue, fun waiting => ?_, flag, subject⟩
    obtain ⟨control, image⟩ := withdrawn.waited waiting
    exact ⟨(congrArg Valve.control final.valve).trans control, (congrArg Valve.image final.valve).trans image⟩

end Sys2Proof.Machine
end

section
/-! SUPPORT. ATTN over every step: a command leaves the blocks as they stand, ends in an event taken whole, which judges ATTN, or puts
the blocks in their device-reset values (R58, R183). -/

namespace Sys2Proof.Machine

/-- The blocks stand as they stood before, or as an event taken whole leaves them. -/
def Net.LeftOrSettled (before after : Net) : Prop := after = before ∨ ∃ e m, after = settle e m

theorem settle_follows (e : Env) (n : Net) : (settle e n).AttnFollows := settle_judged e n ▸ judgeAttn_follows _

theorem Net.AttnFollows.leftOrSettled {n t : Net} (h : n.AttnFollows) (run : n.LeftOrSettled t) : t.AttnFollows := by
  obtain rfl | ⟨e, m, rfl⟩ := run
  · exact h
  · exact settle_follows e m

/-! ### Events -/

theorem leftOrSettled_event (n : Net) (f : Env → Net → Net) (s : State) : n.LeftOrSettled (s.event f).net :=
  .inr ⟨_, _, event_net f s⟩

theorem leftOrSettled_occur {n : Net} {s : State} (h : n.LeftOrSettled s.net) (f : Env → Net → Net) :
    n.LeftOrSettled (s.occur f).net := by
  unfold State.occur
  split
  · exact h
  · exact leftOrSettled_event n f s

theorem leftOrSettled_expireAll (s : State) : s.net.LeftOrSettled s.expireAll.net :=
  State.expireAll_induction (P := fun t => s.net.LeftOrSettled t.net) (fun _ x h => leftOrSettled_occur h x.take) (.inl rfl)

/-! ### Accesses -/

theorem takeControl_net (s : State) (w0 w1 w2 w7 : Word) : (s.takeControl w0 w1 w2 w7).net =
    settle s.env (judgeControl s.env (field w7 0 8) w0 w1 w2 s.net).net := by simp only [State.takeControl]

/-- A record taken is an event, a control record with its answer's blocks (R30, R177). -/
theorem leftOrSettled_takeRecord (n : Net) (s : State) (r : RecordWord) (w : Word) : n.LeftOrSettled (s.takeRecord r w).net := by
  cases r <;> simp only [State.takeRecord]
  case control => exact .inr ⟨_, _, takeControl_net ..⟩
  all_goals exact leftOrSettled_event n _ s

/-- A record write collects its word, which leaves the blocks, hands over a record, or is a record error. -/
theorem leftOrSettled_writeRecord (s : State) (r : RecordWord) (a : Access) : s.net.LeftOrSettled (s.writeRecord r a).net := by
  unfold State.writeRecord
  dsimp only
  split
  · exact leftOrSettled_event ..
  split
  · exact .inl ((setLatch_net ..).trans ((State.Collects.refl s).turnSlot r).net)
  split
  · rw [clearMarks_net]
    exact leftOrSettled_takeRecord ..
  · exact leftOrSettled_event ..

/-- Of the writes in the command window, those of word 3 are events. -/
theorem leftOrSettled_writeCommand (s : State) (v word : Nat) (a : Access) :
    s.net.LeftOrSettled (s.writeCommand v word a).net := by
  unfold State.writeCommand
  split
  · unfold State.refuseWrite
    dsimp only
    split
    · exact .inl rfl
    · exact leftOrSettled_event ..
  · unfold State.passWrite
    dsimp only
    split
    · exact leftOrSettled_event ..
    · exact .inl rfl

/-- Of the reads in the command window, a pickup is an event. -/
theorem leftOrSettled_readCommand (s : State) (v word : Nat) (a : Access) : s.net.LeftOrSettled (s.readCommand v word a).net := by
  unfold State.readCommand
  dsimp only
  split
  · exact .inl rfl
  split
  · exact leftOrSettled_event ..
  · exact .inl rfl

/-- Of the reads in the report window, that of a lost-latch word is an event. -/
theorem leftOrSettled_readReport (s : State) (off : Nat) (a : Access) : s.net.LeftOrSettled (s.readReport off a).net := by
  unfold State.readReport
  dsimp only
  split
  · exact leftOrSettled_event ..
  · exact .inl rfl

theorem leftOrSettled_takePlace (s : State) (p : Place) (a : Access) : s.net.LeftOrSettled (s.takePlace p a).net := by
  have passed : s.net.LeftOrSettled (State.net { s with port := .passed a }) := .inl rfl
  unfold State.takePlace
  split
  · exact passed
  cases p with
  | record r =>
    dsimp only; split
    · exact leftOrSettled_writeRecord s r a
    · exact passed
  | command v word =>
    dsimp only; split
    · exact leftOrSettled_writeCommand s v word a
    · exact leftOrSettled_readCommand s v word a
  | report off =>
    dsimp only; split
    · exact passed
    · exact leftOrSettled_readReport s off a
  | outside => exact passed

/-! ### Commands -/

/-- What a command leaves of the blocks: the device-reset state after a reset command, else what was there or an event's. -/
theorem exec_leftOrSettled {c : Instr} {s t : State} (run : exec c s = .next t) :
    t.net = State.reset.net ∨ s.net.LeftOrSettled t.net := by
  rcases exec_cases c s with ⟨a, _, access⟩ | ⟨_, f, occurs⟩ | rfl | ⟨anch, linkid, rfl⟩ | rfl
  · cases access.symm.trans run; exact .inr (leftOrSettled_takePlace s _ a)
  · cases occurs.symm.trans run; exact .inr (leftOrSettled_occur (.inl rfl) f)
  · cases run; exact .inl rfl
  · cases run; exact .inl rfl
  · cases run
    split
    · exact .inr (.inl rfl)
    · exact .inr (leftOrSettled_expireAll s)

/-- Settles O55: ATTN follows the causes in the device-reset state and at the end of every event, and nothing else moves the blocks. -/
theorem attnFollowsTheCauses : Obligations.AttnFollowsTheCauses := by
  intro s t follows run
  unfold step at run
  split at run
  · cases run; exact follows
  · next c rest _ =>
    rcases exec_leftOrSettled (s := { s with pending := rest }) run with blocks | left
    · rw [blocks]; exact attnFollows_reset
    · exact follows.leftOrSettled left

end Sys2Proof.Machine
end

section
/-! SUPPORT. SET_CAUSE and ACK_CAUSES, and the requests that no owner takes (R177 to R179, R182, R184). -/

namespace Sys2Proof.Machine

/-! ### The causes that a request writes (R182, R184) -/

/-- ACK_CAUSES clears the flag of a named cause and leaves every other record (R184). -/
theorem cause_clearCauses {n : Net} (h : n.Canonical) (w : Word) (k : Nat) :
    (clearCauses w n).cause k = if flagBit w k then { n.cause k with flag := false } else n.cause k :=
  lookup_mapTable (f := fun k (r : CauseRecord) => if flagBit w k then { r with flag := false } else r) h.causes
    (fun _ => ite_self _) k

/-- The detail of ACK_CAUSES shows the named causes whose flags are set (R184, R198). -/
theorem clearedCauses_testBit (w : Word) (n : Net) {k : Nat} (h : k < 16) :
    (clearedCauses w n).testBit k = (flagBit w k && (n.cause k).flag) := by
  unfold clearedCauses causeIds
  rw [packFrom_bits]
  simp [h]

theorem afterControl_net (s : State) (w : ControlWrite) (kind : BitVec 8) (outcome : ControlOutcome) (detail : Nat) (n : Net) :
    (s.afterControl w kind outcome detail n).net = n := clearMarks_net ..

/-- Blocks that differ from settled ones in the causes alone only have ATTN judged. -/
theorem settle_withCauses {n : Net} (e : Env) (h : n.Settled) (causes : Table CauseRecord) :
    settle e { n with causes := causes } = judgeAttn { n with causes := causes } := settle_as e h rfl rfl

/-- Settles O36: each request is handed over in every image state, and moves no record but the causes'. -/
theorem causeRequests : Obligations.CauseRequests := by
  intro s w w0 w1 w2 ready settled
  have set : judgeControl s.env 12 w0 w1 w2 s.net = requestSetCause w0.toNat w1.toNat w2.toNat s.net :=
    judgeControl_handed s.env (q := .setCause) rfl w0 w1 w2 (.inl rfl)
  have ack : judgeControl s.env 13 w0 w1 w2 s.net = requestAckCauses w0 s.net :=
    judgeControl_handed s.env (q := .ackCauses) rfl w0 w1 w2 (.inl rfl)
  refine ⟨fun number level vector => ?_, fun bad => ?_, fun canonical => ?_⟩
  · have taken := controlWrite_accepted ready w 12 (set.trans (if_neg (by omega)))
    exact congrArg _ (taken.trans (congrArg _ (settle_withCauses s.env settled _)))
  · exact congrArg _ (controlWrite_refused ready settled w 12 _ _ (set.trans (if_pos bad)))
  · have taken := controlWrite_accepted ready w 13 ack
    refine ⟨_, (clearCauses w0 s.net).causes, clearedCauses w0 s.net, rfl,
      taken.trans (congrArg _ (settle_withCauses s.env settled _)), fun k _ => ?_, fun k hk => clearedCauses_testBit w0 s.net hk⟩
    have left : (s.controlWrite w 13).net = judgeAttn (clearCauses w0 s.net) := by
      rw [taken, afterControl_net]
      exact settle_withCauses s.env settled _
    show (s.controlWrite w 13).net.cause k = _
    rw [left, judgeAttn_cause]
    exact cause_clearCauses canonical.net w0 k

/-! ### Requests that no owner takes (R177, R179) -/

/-- A kind that holds no assigned code names no request (R179, R197). -/
theorem ofCode_unassigned {kind : Nat} (h : kindAssigned kind = false) : Request.ofCode kind = none := by
  have outside : kind = 0 ∨ 14 ≤ kind := by
    simp only [kindAssigned, Bool.and_eq_false_iff, decide_eq_false_iff_not] at h
    omega
  obtain rfl | beyond := outside
  · rfl
  · obtain ⟨k, rfl⟩ := Nat.exists_eq_add_of_le' beyond
    rfl

/-- The kinds 4 to 11 name the requests that need a LIVE image (R179, R197). -/
theorem ofCode_needsLive {kind : Nat} (h : 4 ≤ kind ∧ kind ≤ 11) : ∃ q, Request.ofCode kind = some q ∧ q.needsLive = true := by
  have listed : kind = 4 ∨ kind = 5 ∨ kind = 6 ∨ kind = 7 ∨ kind = 8 ∨ kind = 9 ∨ kind = 10 ∨ kind = 11 := by omega
  rcases listed with rfl | rfl | rfl | rfl | rfl | rfl | rfl | rfl <;> exact ⟨_, rfl, rfl⟩

theorem judgeControl_unknownKind (e : Env) {kind : Nat} (h : kindAssigned kind = false) (w0 w1 w2 : Word) (n : Net) :
    judgeControl e kind w0 w1 w2 n = refuse n .unknownKind := by
  unfold judgeControl
  rw [ofCode_unassigned h]

theorem judgeControl_notLive (e : Env) {kind : Nat} (h : 4 ≤ kind ∧ kind ≤ 11) (w0 w1 w2 : Word) {n : Net} (dead : n.live = false) :
    judgeControl e kind w0 w1 w2 n = refuse n .notLive := by
  obtain ⟨q, code, needs⟩ := ofCode_needsLive h
  unfold judgeControl
  rw [code]
  exact if_pos (by rw [needs, dead]; rfl)

/-- A request's command is the write of its control record. -/
theorem exec_controlWrite {c : Instr} {w : ControlWrite} {kind : BitVec 8} (h : requestOf c = some (w, kind)) (s : State) :
    exec c s = .next (s.controlWrite w kind) :=
  (exec_request h s).trans (congrArg _ (fullRecordWrite_access s (.control 7) (controlWord7 w kind) w.master).symm)

/-- The well-formed operand of CONTROL_UNKNOWN_KIND holds an unassigned kind in its low eight bits (R177, R193). -/
theorem kindAssigned_of_wellFormed {w7 : Word} {m : Master} (h : (Instr.controlUnknownKind w7 m).wellFormed = true) :
    kindAssigned (field w7 0 8) = false := (Bool.not_eq_true' _).mp h

/-- Settles O37: both are refused before an owner sees them, and a refusal between events leaves the blocks, ATTN judged. -/
theorem unknownAndNotLiveRequestsAreRefused : Obligations.UnknownAndNotLiveRequestsAreRefused := by
  refine ⟨fun s w7 m w0 w1 w2 ready settled unassigned => ?_, fun c w kind s w0 w1 w2 request needs ready settled dead => ?_⟩
  · show Host.Outcome.next (s.fullRecordWrite (.control 7) w7 m) = _
    rw [fullRecordWrite_control ready, judgeControl_unknownKind s.env (kindAssigned_of_wellFormed unassigned)]
    unfold refuse
    rw [settle_settled_net s.env settled]
    rfl
  · rw [exec_controlWrite request,
      controlWrite_refused ready settled w kind _ _ (judgeControl_notLive s.env needs w0 w1 w2 dead)]

end Sys2Proof.Machine
end

section
/-! SUPPORT. What a raise and a record error write (R180, R181, R185). -/

namespace Sys2Proof.Machine

theorem raise_other {n : Net} (h : n.Canonical) (e : Env) (c : Cause) (subject detail : Nat) {k : Nat} (other : k ≠ c.number) :
    (raise e c subject detail n).cause k = n.cause k := h.cause_setCause_other other _

/-- Settles O12: a raise is the write of one cause record, and a record error is by its definition a raise. -/
theorem raisesAndRecordErrorsWriteTheirRecords : Obligations.RaisesAndRecordErrorsWriteTheirRecords :=
  ⟨fun e c subject detail _ canonical =>
    ⟨_, rfl, cause_raise canonical e c subject detail, fun _ other => raise_other canonical e c subject detail other⟩,
    rfl, fun _ _ _ _ _ => rfl⟩

end Sys2Proof.Machine
end

section
/-! SUPPORT. The canonical form over every step: the blocks keep theirs by `Keeps`, and a latch, a buffer or the shadow is written only by
`store` (R29, R35). -/

namespace Sys2Proof.Machine

variable {s : State}

/-! ### Events -/

/-- An event moves the blocks alone. -/
theorem State.Canonical.event (h : s.Canonical) {f : Env → Net → Net} (kept : ∀ e n, Keeps n (f e n)) : (s.event f).Canonical :=
  h.withNet (((Keeps.refl s.net).event kept).canonical h.net)

/-- An event of the part itself, of which the blocks are known to stay canonical, moves nothing else. -/
theorem State.Canonical.occur (h : s.Canonical) {f : Env → Net → Net} (net : (s.occur f).net.Canonical) :
    (s.occur f).Canonical := by
  cases reset : s.resetAsserted with
  | true => rw [occur_underReset reset]; exact h
  | false =>
    have event : s.occur f = s.event f := if_neg (by simp [reset])
    rw [event] at net ⊢
    exact h.withNet net

theorem State.Canonical.expireAll (h : s.Canonical) : s.expireAll.Canonical :=
  State.expireAll_induction (fun _ x c => c.occur (((Keeps.refl _).expire x).canonical c.net)) h

/-! ### Accesses -/

/-- A record taken moves the blocks, and of the rest the control result at most. -/
theorem State.Canonical.takeRecord (h : s.Canonical) (r : RecordWord) (w : Word) : (s.takeRecord r w).Canonical := by
  have net := ((Keeps.refl s.net).takeRecord r w).canonical h.net
  cases r <;> simp only [State.takeRecord] at net ⊢
  case control =>
    simp only [State.takeControl] at net ⊢
    exact { h.withNet net with }
  all_goals exact h.withNet net

/-- A record write collects its word, hands over a record, or is a record error (R29 to R32). -/
theorem State.Canonical.writeRecord (h : s.Canonical) (r : RecordWord) (a : Access) : (s.writeRecord r a).Canonical := by
  have turned : State.Canonical { s.turnSlot r with port := .passed a } := { h.turnSlot r with }
  have errs : ∀ why e n, Keeps n (busError r why a.master e n) := fun why e n => (Keeps.refl n).recordError ..
  unfold State.writeRecord
  dsimp only
  split
  · refine State.Canonical.event ?_ (errs _)
    split
    · exact turned
    · exact turned.clearMark r
  split
  · exact turned.setLatch r _
  split
  · exact (turned.takeRecord r _).clearMarks r
  · exact (turned.clearMarks r).event (errs _)

/-- A suppressed write leaves the shadow; a passed one stores its word there (R35, R37). -/
theorem State.Canonical.writeCommand (h : s.Canonical) (v word : Nat) (a : Access) : (s.writeCommand v word a).Canonical := by
  unfold State.writeCommand
  split
  · unfold State.refuseWrite
    dsimp only
    split
    · exact { h with }
    · refine State.Canonical.event ?_ fun _ n => (Keeps.refl n).raise ..
      exact { h with }
  · have mirrored : ∀ (p : Port) (k : Nat) (w : ShadowWord),
        State.Canonical { s with port := p, shadow := store ShadowWord.atReset s.shadow k w } :=
      fun _ _ _ => { h with shadow := tableWf_store h.shadow }
    unfold State.passWrite
    dsimp only
    split
    · exact (mirrored _ _ _).event fun e n => (Keeps.refl n).processorWrite e v
    · exact mirrored ..

theorem State.Canonical.readCommand (h : s.Canonical) (v word : Nat) (a : Access) : (s.readCommand v word a).Canonical := by
  unfold State.readCommand
  dsimp only
  split
  · exact { h with }
  split
  · refine State.Canonical.event ?_ fun e n => (Keeps.refl n).pickup e v
    exact { h with }
  · exact { h with }

theorem State.Canonical.readReport (h : s.Canonical) (off : Nat) (a : Access) : (s.readReport off a).Canonical := by
  unfold State.readReport
  dsimp only
  split
  · refine State.Canonical.event ?_ fun _ n => (Keeps.refl n).clearLatches ..
    exact { h with }
  · exact { h with }

/-- An access, wherever it falls. -/
theorem State.Canonical.takePlace (h : s.Canonical) (p : Place) (a : Access) : (s.takePlace p a).Canonical := by
  have passed : State.Canonical { s with port := .passed a } := { h with }
  unfold State.takePlace
  split
  · exact passed
  cases p with
  | record r =>
    dsimp only; split
    · exact h.writeRecord r a
    · exact passed
  | command v word =>
    dsimp only; split
    · exact h.writeCommand v word a
    · exact h.readCommand v word a
  | report off =>
    dsimp only; split
    · exact passed
    · exact h.readReport off a
  | outside => exact passed

/-! ### Commands and steps -/

/-- After a reset every table is empty (R41). -/
theorem canonical_deviceReset (s : State) (asserted : Bool) (anch : BitVec 8) (linkid : Master) :
    (s.deviceReset asserted anch linkid).Canonical := ⟨rfl, rfl, rfl, rfl, rfl, Net.Canonical.reset⟩

/-- Whatever a command leaves of the blocks is canonical. -/
theorem exec_net_canonical {c : Instr} {t : State} (h : s.Canonical) (run : exec c s = .next t) : t.net.Canonical := by
  rcases exec_keeps run with blocks | kept
  · exact blocks ▸ Net.Canonical.reset
  · exact kept.canonical h.net

/-- Every command keeps the canonical form. -/
theorem State.Canonical.exec {c : Instr} {t : State} (h : s.Canonical) (run : exec c s = .next t) : t.Canonical := by
  have net := exec_net_canonical h run
  rcases exec_cases c s with ⟨a, _, access⟩ | ⟨_, f, occurs⟩ | rfl | ⟨anch, linkid, rfl⟩ | rfl
  · cases access.symm.trans run; exact h.takePlace _ a
  · cases occurs.symm.trans run; exact h.occur net
  · cases run; exact canonical_deviceReset ..
  · cases run; exact canonical_deviceReset ..
  · cases run
    split
    · exact h
    · exact { h.expireAll with }

/-- With no command waiting the part idles (log 5). -/
theorem step_idles (empty : s.pending = []) : step s = .next s := by
  unfold step
  rw [empty]

/-- A step with a command at the front of the queue runs it with the queue's rest. -/
theorem step_runs {c : Instr} {rest : List Instr} (front : s.pending = c :: rest) :
    step s = exec c { s with pending := rest } := by
  unfold step
  rw [front]

/-- Settles O1: the two cases of a step, by whether a command waits. -/
theorem stepRunsFrontCommand : Obligations.StepRunsFrontCommand :=
  ⟨fun _ _ => step_runs rfl, fun _ => step_idles⟩

/-- Settles O54: idling leaves the tables, and every command keeps their form. -/
theorem everyTableStaysCanonical : Obligations.EveryTableStaysCanonical := by
  intro s t canonical run
  cases queue : s.pending with
  | nil =>
    cases (step_idles queue).symm.trans run
    exact canonical
  | cons c rest =>
    have waiting : State.Canonical { s with pending := rest } := { canonical with }
    exact waiting.exec ((step_runs queue).symm.trans run)

end Sys2Proof.Machine
end

section
/-! SUPPORT. That nothing is pending between events: every event ends settled, from canonical blocks, and what is no event leaves the
blocks (R58, R81, R105, R127, R145; log 23). -/

namespace Sys2Proof.Machine

/-- The blocks as an event leaves them: in canonical form, with nothing pending. -/
structure Net.Rests (n : Net) : Prop where
  canonical : n.Canonical
  settled : n.Settled

theorem rests_reset : State.reset.net.Rests := ⟨Net.Canonical.reset, rfl, fun _ _ => rfl⟩

/-- Settling brings canonical blocks to rest. -/
theorem Net.Canonical.rests_settle {n : Net} (c : n.Canonical) (e : Env) : (settle e n).Rests :=
  ⟨((Keeps.refl n).settle e).canonical c, settle_settles e c⟩

variable {s : State}

/-! ### Events -/

theorem rests_event (c : s.net.Canonical) {f : Env → Net → Net} (kept : ∀ e n, Keeps n (f e n)) : (s.event f).net.Rests :=
  ((kept s.env s.net).canonical c).rests_settle s.env

theorem Net.Rests.occur (h : s.net.Rests) {f : Env → Net → Net} (kept : ∀ e n, Keeps n (f e n)) : (s.occur f).net.Rests := by
  unfold State.occur
  split
  · exact h
  · exact rests_event h.canonical kept

theorem Net.Rests.expireAll (h : s.net.Rests) : s.expireAll.net.Rests :=
  State.expireAll_induction (P := fun t => t.net.Rests) (fun _ x rests => rests.occur fun e n => (Keeps.refl n).expiry x e) h

/-! ### Accesses -/

/-- A record taken is an event, a control record with its answer's blocks (R30, R177). -/
theorem rests_takeRecord (c : s.net.Canonical) (r : RecordWord) (w : Word) : (s.takeRecord r w).net.Rests := by
  cases r <;> simp only [State.takeRecord]
  case image => exact rests_event c fun e n => (Keeps.refl n).takeImageRecord e ..
  case sample => exact rests_event c fun e n => (Keeps.refl n).takeSample e ..
  case position => exact rests_event c fun e n => (Keeps.refl n).takePosition e ..
  case control =>
    rw [takeControl_net]
    exact (((Keeps.refl s.net).judgeControl s.env ..).canonical c).rests_settle s.env

/-- A record write collects its word, hands over a record, or is a record error (R29 to R32). -/
theorem Net.Rests.writeRecord (h : s.net.Rests) (r : RecordWord) (a : Access) : (s.writeRecord r a).net.Rests := by
  have turned : (s.turnSlot r).net = s.net := ((State.Collects.refl s).turnSlot r).net
  have errs : ∀ why e n, Keeps n (busError r why a.master e n) := fun why e n => (Keeps.refl n).recordError ..
  unfold State.writeRecord
  dsimp only
  split
  · refine rests_event ?_ (errs _)
    split
    · exact turned ▸ h.canonical
    · rw [clearMark_net]; exact turned ▸ h.canonical
  split
  · rw [setLatch_net]; exact turned ▸ h
  split
  · rw [clearMarks_net]
    exact rests_takeRecord (turned ▸ h.canonical) ..
  · refine rests_event ?_ (errs _)
    rw [clearMarks_net]; exact turned ▸ h.canonical

/-- Of the writes in the command window, those of word 3 are events (R35 to R37). -/
theorem Net.Rests.writeCommand (h : s.net.Rests) (v word : Nat) (a : Access) : (s.writeCommand v word a).net.Rests := by
  unfold State.writeCommand
  split
  · unfold State.refuseWrite
    dsimp only
    split
    · exact h
    · exact rests_event (by exact h.canonical) fun _ n => (Keeps.refl n).raise ..
  · unfold State.passWrite
    dsimp only
    split
    · exact rests_event (by exact h.canonical) fun e n => (Keeps.refl n).processorWrite e v
    · exact h

/-- Of the reads in the command window, a pickup is an event (R39). -/
theorem Net.Rests.readCommand (h : s.net.Rests) (v word : Nat) (a : Access) : (s.readCommand v word a).net.Rests := by
  unfold State.readCommand
  dsimp only
  split
  · exact h
  split
  · exact rests_event (by exact h.canonical) fun e n => (Keeps.refl n).pickup e v
  · exact h

/-- Of the reads in the report window, that of a lost-latch word is an event (R50). -/
theorem Net.Rests.readReport (h : s.net.Rests) (off : Nat) (a : Access) : (s.readReport off a).net.Rests := by
  unfold State.readReport
  dsimp only
  split
  · exact rests_event (by exact h.canonical) fun _ n => (Keeps.refl n).clearLatches _
  · exact h

/-- An access, wherever it falls. -/
theorem Net.Rests.takePlace (h : s.net.Rests) (p : Place) (a : Access) : (s.takePlace p a).net.Rests := by
  unfold State.takePlace
  split
  · exact h
  cases p with
  | record r =>
    dsimp only; split
    · exact h.writeRecord r a
    · exact h
  | command v word =>
    dsimp only; split
    · exact h.writeCommand v word a
    · exact h.readCommand v word a
  | report off =>
    dsimp only; split
    · exact h
    · exact h.readReport off a
  | outside => exact h

/-! ### Commands and steps -/

/-- Every command leaves the blocks at rest: as its access or its event does, or at their device-reset values. -/
theorem Net.Rests.exec (h : s.net.Rests) {c : Instr} {t : State} (run : exec c s = .next t) : t.net.Rests := by
  by_cases h1 : c = .resetNAssert
  · subst h1; cases run; exact rests_reset
  by_cases h2 : ∃ a l, c = .resetNRelease a l
  · obtain ⟨a, l, rfl⟩ := h2; cases run; exact rests_reset
  by_cases h3 : c = .timeCounterAdvance
  · subst h3; cases run
    split
    · exact h
    · exact h.expireAll
  cases access : accessOf s.anch c with
  | some a =>
    cases (exec_access access).symm.trans run
    exact h.takePlace _ a
  | none =>
    obtain ⟨f, occurs, kept⟩ := exec_occurs access h1 (fun a l h => h2 ⟨a, l, h⟩) h3
    cases occurs.symm.trans run
    exact h.occur kept

theorem Net.Rests.step (h : s.net.Rests) {t : State} (run : step s = .next t) : t.net.Rests := by
  cases queue : s.pending with
  | nil => cases (step_idles queue).symm.trans run; exact h
  | cons c rest => exact Net.Rests.exec (s := { s with pending := rest }) h ((step_runs queue).symm.trans run)

/-- Settles O56: every step leaves the blocks at rest, and keeps the walker at work while jobs wait. -/
theorem nothingIsPendingBetweenEvents : Obligations.NothingIsPendingBetweenEvents := by
  intro s t canonical settled working run
  refine ⟨(Net.Rests.step ⟨canonical.net, settled⟩ run).settled, ?_⟩
  rcases step_keeps run with blocks | kept
  · rw [blocks]
    exact fun _ => rfl
  · exact kept.working working

end Sys2Proof.Machine
end

section
/-! SUPPORT. How the notices of an event are given and taken, faults recorded and escalation judged, and what settling leaves of every
record (R58, R81, R93, R125 to R128, R134, R145; log 11, 13 to 15, 23, 32). -/

namespace Sys2Proof.Machine

/-! ### Notices given (R58, R81, R145) -/

theorem noteValve_unheld (fault : Bool) {v : Nat} {n : Net} (h : (n.valve v).holders = []) : noteValve v fault n = n := if_pos h

theorem noteValve_first (fault : Bool) {v : Nat} {n : Net} (held : (n.valve v).holders ≠ [])
    (first : ∀ a ∈ n.agenda.valves, a.valve ≠ v) : noteValve v fault n =
      { n with agenda := { n.agenda with valves := n.agenda.valves ++ [⟨v, fault⟩] } } := by
  unfold noteValve
  rw [if_neg held, if_neg (by simpa using first)]

theorem noteValve_again (fault : Bool) {v : Nat} {n : Net} (held : (n.valve v).holders ≠ [])
    (given : ∃ a ∈ n.agenda.valves, a.valve = v) : noteValve v fault n =
      { n with agenda := { n.agenda with valves := n.agenda.valves.map fun a =>
        if a.valve = v then { a with fault := a.fault || fault } else a } } := by
  unfold noteValve
  rw [if_neg held, if_pos (by simpa using given)]

/-! ### Notices taken in their order (R58, R81, R145; log 11, 23) -/

theorem drainValves_next (e : Env) (k : Nat) {n : Net} {a : ValveNotice} {l : List ValveNotice} (given : n.agenda.valves = a :: l) :
    drainValves e (k + 1) n =
      drainValves e k (giveValveNotice e a { n with agenda := { n.agenda with valves := l } }) := by
  rw [drainValves, given]

theorem drainSensors_next (e : Env) (k : Nat) {n : Net} (given : n.agenda.sensors ≠ []) : drainSensors e (k + 1) n =
    drainSensors e k (n.agenda.sensors.foldl (fun n s => takeSensorNotice e s n)
      { n with agenda := { n.agenda with sensors := [] } }) := by
  rw [drainSensors]
  split
  · next none => exact absurd none given
  · rfl

/-! ### The entry of a valve in an incident's frames (R83) -/

theorem Incident.entry_none_iff (r : Incident) (v : Nat) :
    r.entry v = none ↔ ∀ f ∈ r.frames, ∀ b ∈ f.boundary, b.valve ≠ v := by
  simp [Incident.entry]

theorem Incident.entry_spec {r : Incident} {v : Nat} {c : Bool} {b : Boundary} (h : r.entry v = some (c, b)) :
    b.valve = v ∧ ∃ f ∈ r.frames, f.checked = c ∧ b ∈ f.boundary := by
  obtain ⟨f, member, found⟩ := List.exists_of_findSome?_eq_some h
  obtain ⟨b', found, same⟩ := Option.map_eq_some_iff.1 found
  cases same
  exact ⟨by simpa using List.find?_some found, f, member, rfl, List.mem_of_find?_eq_some found⟩

/-! ### Faults recorded (R125, R126, R134) -/

theorem IncidentState.records_iff (s : IncidentState) :
    s.records = true ↔ s = .searching ∨ s = .checking ∨ s = .held ∨ s = .closing ∨ s = .isolated := by
  cases s <;> decide

section

variable (e : Env) {i v : Nat} {n : Net}

theorem recordFault_unlisted (h : (n.incident i).entry v = none) : recordFault e i v n = n := by
  unfold recordFault
  dsimp only
  rw [h]

variable {c : Bool} {b : Boundary} (entry : (n.incident i).entry v = some (c, b))
include entry

theorem recordFault_known (failed : b.failed = true) : recordFault e i v n = n := by
  unfold recordFault
  dsimp only
  rw [entry]
  exact if_pos failed

theorem recordFault_fresh (unfailed : b.failed = false) : recordFault e i v n =
    if ¬ (n.incident i).state.records = true then n.setIncident i ((n.incident i).withFailed v true)
    else if 8 ≤ (n.incident i).pendingCauses.length then
      enterFailed e i .causeOverflow (n.setIncident i ((n.incident i).withFailed v true))
    else modIncident i (fun r => { r with pendingCauses := r.pendingCauses ++ [v] })
      (n.setIncident i ((n.incident i).withFailed v true)) := by
  unfold recordFault
  dsimp only
  rw [entry]
  simp only [unfailed, Bool.not_eq_true', Bool.not_eq_true]
  rfl

theorem recordFault_passive (unfailed : b.failed = false) (idle : ¬ (n.incident i).state.records = true) :
    recordFault e i v n = n.setIncident i ((n.incident i).withFailed v true) := by
  rw [recordFault_fresh e entry unfailed, if_pos idle]

theorem recordFault_overflow (unfailed : b.failed = false) (records : (n.incident i).state.records = true)
    (full : 8 ≤ (n.incident i).pendingCauses.length) : recordFault e i v n =
      enterFailed e i .causeOverflow (n.setIncident i ((n.incident i).withFailed v true)) := by
  rw [recordFault_fresh e entry unfailed, if_neg (not_not_intro records), if_pos full]

/-- A recorded fault sets the failed flag and joins the pending causes, and writes nothing else (R125). -/
theorem recordFault_recorded (canonical : n.Canonical) (unfailed : b.failed = false)
    (records : (n.incident i).state.records = true) (room : (n.incident i).pendingCauses.length < 8) :
    recordFault e i v n = { n with incidents := (recordFault e i v n).incidents } ∧
    ∀ j, (recordFault e i v n).incident j = if j = i then { (n.incident i).withFailed v true with
      pendingCauses := (n.incident i).pendingCauses ++ [v] } else n.incident j := by
  rw [recordFault_fresh e entry unfailed, if_neg (not_not_intro records), if_neg (by omega)]
  refine ⟨rfl, fun j => ?_⟩
  have flagged := canonical.setIncident i ((n.incident i).withFailed v true)
  unfold modIncident
  rw [flagged.incident_setIncident, canonical.incident_setIncident_same, canonical.incident_setIncident]
  split <;> rfl

end

/-! ### Other notices of a valve (R93) -/

/-- The valve is asked to close again: checked, unfailed, at REST and not confirmed closed (R93). -/
def Net.AsksAgain (n : Net) (i v : Nat) : Prop :=
  ∃ b, (n.incident i).entry v = some (true, b) ∧ b.failed = false ∧ (n.valve v).motion = .rest ∧
    (n.valve v).confirmedClosed n.params = false

section

variable (e : Env) {i v : Nat} {n : Net}

theorem takeClosingNotice_again (again : n.AsksAgain i v) :
    takeClosingNotice e i v n = judgeIsolation e i (closeRequest e v n) := by
  obtain ⟨b, entry, unfailed, rest, unconfirmed⟩ := again
  simp [takeClosingNotice, entry, unfailed, rest, unconfirmed]

theorem takeClosingNotice_judges (not : ¬ n.AsksAgain i v) : takeClosingNotice e i v n = judgeIsolation e i n := by
  unfold takeClosingNotice
  dsimp only
  rw [if_neg]
  intro again
  split at again
  · next checked b entry =>
    simp only [Bool.and_eq_true, Bool.not_eq_true', decide_eq_true_eq] at again
    obtain ⟨⟨⟨rfl, unfailed⟩, rest⟩, unconfirmed⟩ := again
    exact not ⟨b, entry, unfailed, rest, unconfirmed⟩
  · cases again

theorem takeValveNotice_fault : takeValveNotice e ⟨v, true⟩ i n = recordFault e i v n := rfl

theorem takeValveNotice_closing (h : (n.incident i).state = .closing) :
    takeValveNotice e ⟨v, false⟩ i n = takeClosingNotice e i v n := if_pos h

theorem takeValveNotice_ignored (h : (n.incident i).state ≠ .closing) : takeValveNotice e ⟨v, false⟩ i n = n := if_neg h

/-! ### Escalation (R127, R128) -/

theorem callsForEscalation_iff (r : Incident) : callsForEscalation r = true ↔
    (r.state = .held ∨ r.state = .closing ∨ r.state = .isolated) ∧ r.pendingCauses ≠ [] ∧ r.marker = .none := by
  simp [callsForEscalation, or_assoc, and_assoc]

theorem escalate_uncalled (h : ¬ callsForEscalation (n.incident i) = true) : escalate e i n = n :=
  escalate_calm e i (Bool.eq_false_iff.2 h)

theorem escalate_called (h : callsForEscalation (n.incident i) = true) : escalate e i n =
    if 3 ≤ (n.incident i).depth then enterFailed e i .depth n
    else noteIncident i (queueJob e (.boundary i ((n.incident i).depth + 1)) (n.setIncident i { n.incident i with
      state := .searching, holdTimer := none, holdReason := .none })) := by
  unfold escalate
  dsimp only
  rw [h]
  rfl

end

/-! ### What settling leaves (R58, R81, R145) -/

theorem settle_eq (e : Env) (n : Net) : settle e n = judgeAttn { drainSensors e 2048
    (drainIncidents e (judgeEscalations e (drainValves e 8192 n))) with agenda := {} } := by
  unfold settle
  dsimp only
  rfl

theorem Follows.settle {m n : Net} (h : Follows m n) (e : Env) : Follows m (settle e n) := by
  have drained := ((((h.drainValves e 8192).judgeEscalations e).drainIncidents e).drainSensors e 2048)
  rw [settle_eq]
  exact (drained.agenda {}).judgeAttn

theorem settle_lasts (e : Env) {n : Net} (h : n.Canonical) : n.Lasts (settle e n) := (((Follows.refl n).settle e).holds h).2

/-- Settles O60: how each notice is given, in what order they are taken, what a holding incident and escalation make of them, and what
lasts through all of it. -/
theorem noticesAreTakenAndLeaveWhatLasts : Obligations.NoticesAreTakenAndLeaveWhatLasts := by
  refine ⟨settle_eq, fun e k n => ?_, fun v fault n => ?_, fun ids i n => ?_, fun r v => ?_, fun e v i n canonical => ?_,
    fun e i n => ?_, fun e n canonical => settle_lasts e canonical⟩
  · exact ⟨rfl, rfl, drainValves_calm e (k + 1), drainSensors_calm e (k + 1), fun a l => drainValves_next e k,
      drainSensors_next e k, rfl⟩
  · exact ⟨noteValve_unheld fault, noteValve_first fault, noteValve_again fault⟩
  · exact ⟨rfl, mem_noteSensors ids n, insertAll_rises ids, fun given => if_pos given, fun first => if_neg first⟩
  · exact ⟨r.entry_none_iff v, fun c b => Incident.entry_spec⟩
  · refine ⟨recordFault_unlisted e, fun c b entry => ⟨recordFault_known e entry, fun unfailed idle => ?_,
      fun unfailed records full => ?_, fun unfailed records room => ?_⟩, takeValveNotice_ignored e,
      fun closing again => ?_, fun closing not => ?_⟩
    · exact recordFault_passive e entry unfailed fun records => idle ((IncidentState.records_iff _).1 records)
    · exact recordFault_overflow e entry unfailed ((IncidentState.records_iff _).2 records) full
    · obtain ⟨aside, incidents⟩ := recordFault_recorded e entry canonical unfailed ((IncidentState.records_iff _).2 records) room
      exact ⟨aside, (incidents i).trans (if_pos rfl), fun j other => (incidents j).trans (if_neg other)⟩
    · exact (takeValveNotice_closing e closing).trans (takeClosingNotice_again e again)
    · exact (takeValveNotice_closing e closing).trans (takeClosingNotice_judges e not)
  · refine ⟨fun not => escalate_uncalled e fun called => not ((callsForEscalation_iff _).1 called), fun called deep => ?_,
      fun called shallow => ?_⟩
    · rw [escalate_called e ((callsForEscalation_iff _).2 called), if_pos deep]
    · rw [escalate_called e ((callsForEscalation_iff _).2 called), if_neg (by omega)]

end Sys2Proof.Machine
end

section
/-! SUPPORT. The intake of samples: what disposes of one before the state machine, and what a GOOD one does (R44 to R49, R58). -/

namespace Sys2Proof.Machine

section

variable (e : Env) {k : Nat} {w0 : Word} (w1 : Word) {n : Net}

theorem takeSample_slotMismatch (other : field w1 0 10 ≠ k) : takeSample e k w0 w1 n =
    recordError e .sample .slotMismatch { slot := some k, id := some (field w1 0 10) } n :=
  if_pos other

variable (own : field w1 0 10 = k)
include own

theorem takeSample_fieldRange (reserved : field w1 10 2 = 3) : takeSample e k w0 w1 n =
    recordError e .sample .fieldRange { slot := some k, id := some (field w1 0 10) } n :=
  (if_neg (not_not_intro own)).trans (if_pos reserved)

variable (quality : field w1 10 2 ≠ 3)
include quality

theorem takeSample_dropped (unjudged : n.live = false ∨ (n.sensor k).tag ≠ .adopted) : takeSample e k w0 w1 n =
    { n with dropped := min (n.dropped + 1) 65535 } :=
  (if_neg (not_not_intro own)).trans ((if_neg quality).trans (if_pos (by simpa using unjudged)))

variable (live : n.live = true) (adopted : (n.sensor k).tag = .adopted)
include live adopted

theorem takeSample_repeated (same : (n.sensor k).lastSequence = some (BitVec.ofNat 16 (field w1 16 16))) :
    takeSample e k w0 w1 n = n.setSensor k { n.sensor k with repeats := min ((n.sensor k).repeats + 1) 65535 } :=
  (if_neg (not_not_intro own)).trans ((if_neg quality).trans ((if_neg (by simp [live, adopted])).trans (if_pos same)))

/-- The sensor as a sample with a new sequence number finds it (R46). -/
def Sensor.sequenced (x : Sensor) (sequence : BitVec 16) : Sensor := { x with lastSequence := some sequence }

variable (fresh : (n.sensor k).lastSequence ≠ some (BitVec.ofNat 16 (field w1 16 16)))
include fresh

theorem takeSample_badDigit (digit : sampleValue (n.sensor k).format w0 = none) : takeSample e k w0 w1 n =
    n.setSensor k ((n.sensor k).sequenced (BitVec.ofNat 16 (field w1 16 16))).takeBadDigit := by
  unfold takeSample
  dsimp only [sampleFields]
  rw [if_neg (not_not_intro own), if_neg quality, if_neg (by simp [live, adopted]), if_neg fresh, digit]
  rfl

variable {v : Int} (converted : sampleValue (n.sensor k).format w0 = some v)
include converted

/-- A fresh sample with a value is disposed of by its quality, or taken by the state machine (R48). -/
theorem takeSample_converted : takeSample e k w0 w1 n =
    let x := (n.sensor k).sequenced (BitVec.ofNat 16 (field w1 16 16))
    if field w1 10 2 = 2 then n.setSensor k x.takeBad
    else if field w1 10 2 = 1 then n.setSensor k (x.takeDoubtful e.time)
    else noteSensors [k] (n.setSensor k (x.takeGood e.time v)) := by
  unfold takeSample
  dsimp only [sampleFields]
  rw [if_neg (not_not_intro own), if_neg quality, if_neg (by simp [live, adopted]), if_neg fresh, converted]
  rfl

theorem takeSample_bad (bad : field w1 10 2 = 2) : takeSample e k w0 w1 n =
    n.setSensor k ((n.sensor k).sequenced (BitVec.ofNat 16 (field w1 16 16))).takeBad :=
  (takeSample_converted e w1 own quality live adopted fresh converted).trans (if_pos bad)

theorem takeSample_doubtful (doubtful : field w1 10 2 = 1) : takeSample e k w0 w1 n =
    n.setSensor k (((n.sensor k).sequenced (BitVec.ofNat 16 (field w1 16 16))).takeDoubtful e.time) :=
  (takeSample_converted e w1 own quality live adopted fresh converted).trans
    ((if_neg (by omega)).trans (if_pos doubtful))

theorem takeSample_good (good : field w1 10 2 = 0) : takeSample e k w0 w1 n = noteSensors [k]
    (n.setSensor k (((n.sensor k).sequenced (BitVec.ofNat 16 (field w1 16 16))).takeGood e.time v)) :=
  (takeSample_converted e w1 own quality live adopted fresh converted).trans
    ((if_neg (by omega)).trans (if_neg (by omega)))

end

/-- A DOUBTFUL sample is counted, and restarts the loss timer but in LOST (R48, R49). -/
theorem Sensor.takeDoubtful_eq (x : Sensor) (now : Time) : x.takeDoubtful now = { x with
    doubtful := min (x.doubtful + 1) 65535
    loss := if x.state = .lost then x.loss else some (now + BitVec.ofNat 32 x.lossTimeout) } := by
  unfold Sensor.takeDoubtful
  dsimp only
  split <;> rfl

theorem settle_setSensor {n : Net} (e : Env) (h : n.Settled) (k : Nat) (x : Sensor) :
    settle e (n.setSensor k x) = judgeAttn (n.setSensor k x) := settle_as e h rfl rfl

/-- Settles O17: the disposals in their order, of which none gives a notice. -/
theorem sampleDisposedBeforeTheStateMachine : Obligations.SampleDisposedBeforeTheStateMachine := by
  intro s slot w0 w1 m ready settled k x id quality sequence after
  have taken : ∀ {t}, takeSample s.env k w0 w1 s.net = t → settle s.env t = judgeAttn t →
      exec (.sampleRecord slot w1 m) s = after t := fun h calm =>
    (exec_sampleRecord ready w1 m).trans
      (congrArg (fun n => Host.Outcome.next (s.afterRecord (.sample slot 1) w1 m n)) ((congrArg _ h).trans calm))
  have changed : ∀ {y}, takeSample s.env k w0 w1 s.net = s.net.setSensor k y →
      exec (.sampleRecord slot w1 m) s = after (s.net.setSensor k y) := fun h => taken h (settle_setSensor s.env settled k _)
  refine ⟨fun other => taken (takeSample_slotMismatch _ _ other) (settle_recordError s.env settled ..),
    fun own reserved => taken (takeSample_fieldRange _ _ own reserved) (settle_recordError s.env settled ..),
    fun own sound unjudged => taken (takeSample_dropped _ _ own sound unjudged) (settle_as s.env settled rfl rfl),
    fun own sound live adopted => ⟨fun same => changed (takeSample_repeated _ _ own sound live adopted same),
      fun fresh => ⟨fun digit => changed (takeSample_badDigit _ _ own sound live adopted fresh digit),
        fun digits bad => ?_, fun digits doubtful => ?_⟩⟩⟩
  · obtain ⟨v, converted⟩ := Option.ne_none_iff_exists'.1 digits
    exact changed (takeSample_bad _ _ own sound live adopted fresh converted bad)
  · obtain ⟨v, converted⟩ := Option.ne_none_iff_exists'.1 digits
    exact changed ((takeSample_doubtful _ _ own sound live adopted fresh converted doubtful).trans
      (congrArg _ (Sensor.takeDoubtful_eq ..)))

/-- Settles O18: the last stage of the intake, which alone gives a notice. -/
theorem goodSampleTakenByTheStateMachine : Obligations.GoodSampleTakenByTheStateMachine := by
  intro s slot w0 w1 m v ready k x sequence own good live adopted fresh converted
  have taken := takeSample_good s.env w1 own (by omega) live adopted fresh converted good
  exact (exec_sampleRecord ready w1 m).trans
    (congrArg (fun n => Host.Outcome.next (s.afterRecord (.sample slot 1) w1 m (settle s.env n))) taken)

end Sys2Proof.Machine
end

section
/-! SUPPORT. The values of samples, the baseline, and the sensor state machine with its timers (R47 to R57). -/

namespace Sys2Proof.Machine

/-! ### The state machine (R51 to R57) -/

section

variable {x : Sensor} (now : Time) (v : Int)

theorem Sensor.learn_unseeded (h : x.seeded = false) : x.learn v = { x with
    baseline := v * 256, seeded := true, remaining := x.remaining - 1
    state := if x.remaining - 1 = 0 then .normal else .learning } := by
  unfold Sensor.learn
  rw [h]
  rfl

theorem Sensor.learn_seeded (h : x.seeded = true) : x.learn v = { x with
    baseline := x.baseline + (v * 256 - x.baseline) >>> x.shift, remaining := x.remaining - 1
    state := if x.remaining - 1 = 0 then .normal else .learning } := by
  unfold Sensor.learn
  dsimp only
  rw [if_pos h]
  rfl

theorem Sensor.stepGood_learning (h : x.state = .learning) :
    x.stepGood now v = Sensor.learn { x with lastGood := some v } v := by
  unfold Sensor.stepGood
  dsimp only
  rw [h]

theorem Sensor.stepGood_lost (h : x.state = .lost) :
    x.stepGood now v = Sensor.learn (Sensor.restarted { x with lastGood := some v }) v := by
  unfold Sensor.stepGood
  dsimp only
  rw [h]

theorem Sensor.exceeds_iff (d : Int) : x.exceeds d = true ↔ (x.threshold : Int) < d := decide_eq_true_iff

theorem Sensor.stepGood_normal (h : x.state = .normal) : x.stepGood now v =
    if (x.threshold : Int) < x.deviation v then { x with
      lastGood := some v, lastDeviation := x.deviation v, state := .excursion, persist := startTimer now x.persistence }
    else { Sensor.update { x with lastGood := some v } v with lastDeviation := x.deviation v } := by
  unfold Sensor.stepGood
  dsimp only
  rw [h]
  simp only [Sensor.exceeds_iff]
  rfl

theorem Sensor.stepGood_excursion (h : x.state = .excursion) : x.stepGood now v =
    if (x.threshold : Int) < x.deviation v then { x with lastGood := some v, lastDeviation := x.deviation v }
    else { x with lastGood := some v, lastDeviation := x.deviation v, state := .normal, persist := none } := by
  unfold Sensor.stepGood
  dsimp only
  rw [h]
  simp only [Sensor.exceeds_iff]
  rfl

theorem Sensor.stepGood_tripped (h : x.state = .tripped) : x.stepGood now v =
    if x.deviation v < ((x.threshold / 2 : Nat) : Int) then { x with
      lastGood := some v, lastDeviation := x.deviation v, state := .normal }
    else { x with lastGood := some v, lastDeviation := x.deviation v } := by
  unfold Sensor.stepGood
  dsimp only
  rw [h]
  simp only [Sensor.belowHalf, decide_eq_true_iff]
  rfl

theorem Sensor.deviation_pressure (h : x.kind = .pressure) : x.deviation v = x.baseline.tdiv 256 - v := by
  unfold Sensor.deviation
  rw [h]
  rfl

theorem Sensor.deviation_flow (h : x.kind = .flow) :
    x.deviation v = (v.natAbs : Int) - ((x.baseline.tdiv 256).natAbs : Int) := by
  unfold Sensor.deviation
  rw [h]
  rfl

end

/-- Settles O19: the step of each state, with the comparison that decides it. -/
theorem sensorStateRules : Obligations.SensorStateRules := by
  intro x now v d y
  refine ⟨fun learning unseeded => ?_, fun learning seeded => ?_, fun normal above => ?_, fun normal within => ?_,
    fun excursion above => ?_, fun excursion within => ?_, fun tripped below => ?_, fun tripped above => ?_, fun lost => ?_,
    Sensor.deviation_pressure v, Sensor.deviation_flow v⟩
  · exact (Sensor.stepGood_learning now v learning).trans (Sensor.learn_unseeded v unseeded)
  · exact (Sensor.stepGood_learning now v learning).trans (Sensor.learn_seeded v seeded)
  · exact (Sensor.stepGood_normal now v normal).trans (if_pos above)
  · exact (Sensor.stepGood_normal now v normal).trans (if_neg (Int.not_lt.2 within))
  · exact (Sensor.stepGood_excursion now v excursion).trans (if_pos above)
  · exact (Sensor.stepGood_excursion now v excursion).trans (if_neg (Int.not_lt.2 within))
  · exact (Sensor.stepGood_tripped now v tripped).trans (if_pos below)
  · exact (Sensor.stepGood_tripped now v tripped).trans (if_neg (Int.not_lt.2 above))
  · exact (Sensor.stepGood_lost now v lost).trans (Sensor.learn_unseeded v rfl)

/-! ### The baseline (R51) -/

/-- A difference shifted right lies between 0 and itself, and is negative when the difference is (R51). -/
theorem shiftRight_between (d : Int) (k : Nat) :
    (0 ≤ d → 0 ≤ d >>> k ∧ d >>> k ≤ d) ∧ (d < 0 → d ≤ d >>> k ∧ d >>> k < 0) := by
  have pos : (0 : Int) < ((2 ^ k : Nat) : Int) := by exact_mod_cast Nat.two_pow_pos k
  rw [Int.shiftRight_eq_div_pow]
  refine ⟨fun up => ⟨Int.ediv_nonneg up (Int.le_of_lt pos), Int.ediv_le_self _ up⟩,
    fun down => ⟨?_, Int.ediv_neg_of_neg_of_pos down pos⟩⟩
  have scaled : d * ((2 ^ k : Nat) : Int) ≤ d * 1 := Int.mul_le_mul_of_nonpos_left (Int.le_of_lt down) pos
  rw [Int.mul_one] at scaled
  exact (Int.le_ediv_iff_mul_le pos).2 scaled

/-! ### The values of samples (R47) -/

theorem sampleValue_binary (w : Word) : sampleValue .binary w =
    some (if w.toNat % 2 ^ 16 < 2 ^ 15 then ((w.toNat % 2 ^ 16 : Nat) : Int) else ((w.toNat % 2 ^ 16 : Nat) : Int) - 2 ^ 16) := by
  unfold sampleValue signed16
  rw [BitVec.toInt_eq_toNat_cond, BitVec.toNat_ofNat]
  refine congrArg some ?_
  split <;> split <;> omega

/-- The magnitude of a DECIMAL sample (R47). -/
def decimalDigits (w : Word) : Nat := field w 12 4 * 1000 + field w 8 4 * 100 + field w 4 4 * 10 + field w 0 4

/-- Every digit of a DECIMAL sample is at most 9 (R47). -/
def DigitsGood (w : Word) : Prop := field w 0 4 ≤ 9 ∧ field w 4 4 ≤ 9 ∧ field w 8 4 ≤ 9 ∧ field w 12 4 ≤ 9

theorem sampleValue_decimal {w : Word} (good : DigitsGood w) :
    sampleValue .decimal w = some (if w.getLsbD 31 then -(decimalDigits w : Int) else (decimalDigits w : Int)) :=
  if_pos good

theorem sampleValue_badDigit {w : Word} (bad : ¬ DigitsGood w) : sampleValue .decimal w = none := if_neg bad

theorem sampleValue_decimal_none_iff (w : Word) : sampleValue .decimal w = none ↔ ¬ DigitsGood w :=
  ⟨fun none good => Option.some_ne_none _ ((sampleValue_decimal good).symm.trans none), sampleValue_badDigit⟩

/-- Settles O20: a shifted difference never passes the difference, and both formats bound their values by their digits. -/
theorem baselineNeverPassesTheSample : Obligations.BaselineNeverPassesTheSample := by
  refine ⟨fun x v => ?_, fun w => ⟨sampleValue_binary w, fun units tens hundreds thousands =>
    sampleValue_decimal ⟨units, tens, hundreds, thousands⟩⟩, fun w v value => ?_, fun w v value => ?_, fun w => ?_⟩
  · obtain ⟨up, down⟩ := shiftRight_between (v * 256 - x.baseline) x.shift
    refine ⟨fun below => ?_, fun above => ?_⟩
    · obtain ⟨low, high⟩ := up (by omega)
      exact ⟨by show x.baseline ≤ x.baseline + _; omega, by show x.baseline + _ ≤ _; omega⟩
    · obtain ⟨low, high⟩ := down (by omega)
      exact ⟨by show _ ≤ x.baseline + _; omega, by show x.baseline + _ < x.baseline; omega⟩
  · cases (sampleValue_binary w).symm.trans value
    split <;> omega
  · by_cases good : DigitsGood w
    · cases (sampleValue_decimal good).symm.trans value
      obtain ⟨units, tens, hundreds, thousands⟩ := good
      unfold decimalDigits
      split <;> omega
    · cases (sampleValue_badDigit good).symm.trans value
  · rw [sampleValue_decimal_none_iff]
    unfold DigitsGood
    omega

/-! ### The timers of a sensor (R49, R55; log 3, 4) -/

theorem Sensor.supervised_iff (x : Sensor) : x.supervised = true ↔
    x.state = .learning ∨ x.state = .normal ∨ x.state = .excursion ∨ x.state = .tripped := by
  simp [Sensor.supervised, or_assoc]

section

variable {e : Env} {k : Nat} {n : Net}

theorem loseSensor_due (supervised : (n.sensor k).supervised = true) (due : timerDue (n.sensor k).loss e.time = true) :
    loseSensor e k n = noteSensors [k] (raise e .sensorLost k 0
      (n.setSensor k { n.sensor k with state := .lost, loss := none, persist := none, latch := true })) :=
  if_pos (Bool.and_eq_true_iff.2 ⟨supervised, due⟩)

theorem loseSensor_idle (h : (n.sensor k).supervised = false ∨ timerDue (n.sensor k).loss e.time = false) :
    loseSensor e k n = n := if_neg (Bool.eq_false_iff.1 (Bool.and_eq_false_iff.2 h))

theorem tripSensor_due (excursion : (n.sensor k).state = .excursion) (due : timerDue (n.sensor k).persist e.time = true) :
    tripSensor e k n = noteSensors [k] (n.setSensor k { n.sensor k with state := .tripped, persist := none }) :=
  if_pos (Bool.and_eq_true_iff.2 ⟨decide_eq_true excursion, due⟩)

theorem tripSensor_idle (h : (n.sensor k).state ≠ .excursion ∨ timerDue (n.sensor k).persist e.time = false) :
    tripSensor e k n = n := if_neg (Bool.eq_false_iff.1 (Bool.and_eq_false_iff.2 (h.imp_left decide_eq_false)))

end

/-- Settles O21: each timer by whether it runs in the sensor's state and is due. -/
theorem sensorTimersExpire : Obligations.SensorTimersExpire := by
  refine ⟨Sensor.supervised_iff, ?_⟩
  intro s sensor released k x
  refine ⟨fun supervised due => ?_, fun excursion due => ?_, fun settled idle => ?_, fun settled idle => ?_⟩
  · exact congrArg _ (expire_taken released (x := .sensorLoss k) (loseSensor_due supervised due))
  · exact congrArg _ (expire_taken released (x := .sensorPersistence k) (tripSensor_due excursion due))
  · exact congrArg _ (expire_nothing released (x := .sensorLoss k) settled (loseSensor_idle idle))
  · exact congrArg _ (expire_nothing released (x := .sensorPersistence k) settled (tripSensor_idle idle))

/-! ### The lost latches (R50) -/

theorem reportWord_latch (s : State) {k : Nat} (h : k < 32) : reportWord s (latchOffset k) = latchWord s.net k := by
  have page : (latchPage s).getD k 0 = latchWord s.net k := by simp [latchPage, h]
  unfold reportWord latchOffset
  rw [if_neg (by omega), if_neg (by omega), if_neg (by omega), if_pos (by omega),
    show (0x20300 + 4 * k - 0x20300) / 4 = k by omega, page]

theorem latchWord_getLsbD (n : Net) (k : Nat) {b : Nat} (h : b < 32) :
    (latchWord n k).getLsbD b = (n.sensor (32 * k + b)).latch := by
  unfold latchWord pack
  rw [BitVec.getLsbD_ofNat, packFrom_bits (fun b => (n.sensor (32 * k + b)).latch)]
  simp [h]

theorem sensor_clearLatches {n : Net} (h : n.Canonical) (k j : Nat) : (clearLatches k n).sensor j =
    if j / 32 = k ∧ (n.sensor j).state ≠ .lost then { n.sensor j with latch := false } else n.sensor j :=
  sensor_mapSensors (f := fun i s => if i / 32 = k ∧ s.state ≠ .lost then { s with latch := false } else s) h
    (fun _ => ite_self _) j

/-- Settles O9: the page word before the read, and the latches that the read clears, of which none gives a notice. -/
theorem lostLatchReadReturnsThenClears : Obligations.LostLatchReadReturnsThenClears := by
  intro s k be m released canonical settled
  have quiet : settle s.env (clearLatches k.toNat s.net) = judgeAttn (clearLatches k.toNat s.net) :=
    settle_as s.env settled rfl rfl
  refine ⟨{ s with
      port := .answered ⟨false, apertureBase s.anch + latchOffset k.toNat, be, 0, m⟩ (latchWord s.net k.toNat)
      net := judgeAttn (clearLatches k.toNat s.net) }, latchWord s.net k.toNat, ?_, rfl,
    fun b => latchWord_getLsbD s.net k.toNat, fun j => sensor_clearLatches canonical.net k.toNat j⟩
  rw [exec_lostLatchRead released, reportWord_latch s k.isLt, ← quiet]
  rfl

end Sys2Proof.Machine
end

section
/-! SUPPORT. Re-baselining: which sensors it restarts, what it leaves of each, and the request for it (R60, R61; log 10, 12, 35). -/

namespace Sys2Proof.Machine

/-! ### The request (R61) -/

section

variable {k : Nat} {n : Net}

theorem requestRebaseline_all (h : k = 0xFFFFFFFF) : requestRebaseline k n =
    accept (rebaseline (fun _ => true) n) (rebaselineCount (fun _ => true) n) := if_pos h

theorem requestRebaseline_cell (h : k < 64) (adopted : (n.cell k).tag = .adopted) : requestRebaseline k n =
    accept (rebaseline (fun s => s.cell == k) n) (rebaselineCount (fun s => s.cell == k) n) := by
  unfold requestRebaseline allCells
  rw [if_neg (by omega), noCell_of h adopted]
  rfl

theorem requestRebaseline_badId (h : k ≠ 0xFFFFFFFF) (unknown : 64 ≤ k ∨ (n.cell k).tag ≠ .adopted) :
    requestRebaseline k n = refuse n .badId := by
  unfold requestRebaseline allCells
  rw [if_neg h, noCell_unless unknown]
  rfl

end

/-! ### The sensors restarted (R60) -/

/-- Re-baselining of the chosen sensors restarts this one: ADOPTED, and in one of the four running states (R60). -/
def Sensor.Restarts (x : Sensor) (p : Sensor → Bool) : Prop := p x = true ∧ x.tag = .adopted ∧ x.supervised = true

theorem Sensor.restarts_iff (x : Sensor) (p : Sensor → Bool) : (p x && x.rebaselines) = true ↔ x.Restarts p := by
  simp [Sensor.rebaselines, Sensor.Restarts]

theorem Sensor.not_restarts_iff (x : Sensor) (p : Sensor → Bool) :
    ¬ x.Restarts p ↔ p x = false ∨ x.tag ≠ .adopted ∨ x.supervised = false := by
  unfold Sensor.Restarts
  rw [Decidable.not_and_iff_not_or_not, Decidable.not_and_iff_not_or_not, Bool.not_eq_true, Bool.not_eq_true]

section

variable {n : Net} (h : n.Canonical) (p : Sensor → Bool)
include h

theorem rebaselineCount_eq {l : List Nat} (named : Enumerates l fun k => (n.sensor k).Restarts p) :
    rebaselineCount p n = l.length := by
  have found := idsWhere_enumerates (p := fun _ s => p s && s.rebaselines) h.sensors fun _ => Bool.and_false _
  have same : Enumerates (idsWhere (fun _ s => p s && s.rebaselines) n.sensors) fun k => (n.sensor k).Restarts p :=
    ⟨found.1, fun k => (found.2 k).trans ((n.sensor k).restarts_iff p)⟩
  exact congrArg List.length (same.unique named)

/-- A restarted sensor gives a notice when its state changes (R58, R60; log 12). -/
theorem mem_rebaseline_sensors (k : Nat) : k ∈ (rebaseline p n).agenda.sensors ↔
    k ∈ n.agenda.sensors ∨ ((n.sensor k).Restarts p ∧ (n.sensor k).state ≠ .learning) := by
  have changed : k ∈ idsWhere (fun _ s => p s && s.rebaselines && s.state != .learning) n.sensors ↔
      (n.sensor k).Restarts p ∧ (n.sensor k).state ≠ .learning := by
    rw [mem_idsWhere (d := Sensor.atReset) h.sensors (fun _ => by rw [show Sensor.rebaselines Sensor.atReset = false from rfl,
      Bool.and_false, Bool.false_and]), Bool.and_eq_true, bne_iff_ne]
    exact and_congr_left' ((n.sensor k).restarts_iff p)
  exact (mem_noteSensors _ _ k).trans ((or_congr changed Iff.rfl).trans or_comm)

theorem sensor_rebaseline_restarts {k : Nat} (restarts : (n.sensor k).Restarts p) :
    (rebaseline p n).sensor k = { (n.sensor k).restarted with shown := false } := by
  rw [sensor_rebaseline h, if_pos ((Sensor.restarts_iff ..).2 restarts)]

theorem sensor_rebaseline_stays {k : Nat} (stays : ¬ (n.sensor k).Restarts p) : (rebaseline p n).sensor k = n.sensor k := by
  rw [sensor_rebaseline h, if_neg fun r => stays ((Sensor.restarts_iff ..).1 r)]

end

/-- Settles O22: the request by its argument, the count by the sensors restarted, and what each sensor becomes. -/
theorem rebaselineRestartsLearning : Obligations.RebaselineRestartsLearning := by
  refine ⟨fun s w w0 w1 w2 ready live => ?_, fun p n l canonical => rebaselineCount_eq canonical p, fun p n canonical k => ?_⟩
  · have handed : judgeControl s.env 11 w0 w1 w2 s.net = requestRebaseline w0.toNat s.net :=
      judgeControl_handed s.env (q := .rebaseline) rfl w0 w1 w2 (.inr live)
    refine ⟨fun all => ?_, fun named adopted => ?_, fun settled some unknown => ?_⟩
    · exact congrArg _ (controlWrite_accepted ready w 11 (handed.trans (requestRebaseline_all (by rw [all]; rfl))))
    · exact congrArg _ (controlWrite_accepted ready w 11 (handed.trans (requestRebaseline_cell named adopted)))
    · have other : w0.toNat ≠ 0xFFFFFFFF := fun all => some (BitVec.eq_of_toNat_eq all)
      exact congrArg _ (controlWrite_refused ready settled w 11 _ _ (handed.trans (requestRebaseline_badId other unknown)))
  · refine ⟨(mem_rebaseline_sensors canonical p k).trans ?_, fun chosen adopted supervised => ?_, fun stays => ?_⟩
    · simp only [Sensor.Restarts, and_assoc]
    · exact sensor_rebaseline_restarts canonical p ⟨chosen, adopted, supervised⟩
    · exact sensor_rebaseline_stays canonical p ((Sensor.not_restarts_iff ..).2 stays)

end Sys2Proof.Machine
end

section
/-! SUPPORT. The expiry of a cell's persistence timer, the evidence score and when it starts the Locator, and how a sensor notice is taken
(R58, R59, R65, R67, R71, R72; log 3, 4, 10, 20, 36). -/

namespace Sys2Proof.Machine

/-! ### The persistence timer of a cell (R67) -/

section

variable {e : Env} {k : Nat} {n : Net}

theorem tripCell_due (watch : (n.cell k).state = .watch) (due : timerDue (n.cell k).persist e.time = true) : tripCell e k n =
    evaluate e k (n.setCell k { n.cell k with state := .tripped, persist := none }) :=
  if_pos (Bool.and_eq_true_iff.2 ⟨decide_eq_true watch, due⟩)

theorem tripCell_idle (h : (n.cell k).state ≠ .watch ∨ timerDue (n.cell k).persist e.time = false) : tripCell e k n = n :=
  if_neg (Bool.eq_false_iff.1 (Bool.and_eq_false_iff.2 (h.imp_left decide_eq_false)))

end

/-! ### The score (R71) -/

/-- The sensors that count toward the score of a cell: ADOPTED, in it, and shown TRIPPED and not masked (R71). -/
def Net.shownIn (n : Net) (k : Nat) : Nat := n.sensors.countP fun kv => kv.2.tag = .adopted && kv.2.cell = k && kv.2.shown

theorem shownIn_eq (n : Net) (k : Nat) : (idsWhere (fun _ s => countsFor k s) n.sensors).length = n.shownIn k := by
  unfold idsWhere Net.shownIn
  rw [List.length_map, ← List.countP_eq_length_filter]
  rfl

section

variable (n : Net) (k : Nat) {c : Cell}

theorem scoreOf_tripped (h : c.state = .tripped) : scoreOf n k c = min (2 + n.shownIn k) 31 := by
  unfold scoreOf
  rw [h, shownIn_eq]
  rfl

theorem scoreOf_watching (h : c.state = .quiet ∨ c.state = .watch) : scoreOf n k c = min (n.shownIn k) 31 := by
  unfold scoreOf
  rcases h with h | h <;> rw [h, shownIn_eq] <;> rfl

theorem scoreOf_inactive (h : c.state = .idle ∨ c.state = .suspended) : scoreOf n k c = 0 := by
  unfold scoreOf
  rcases h with h | h <;> rw [h]

end

/-! ### The score re-evaluated (R71, R72) -/

/-- The score of a cell rises to the required score (R72). -/
def Net.Rises (n : Net) (k : Nat) : Prop :=
  (n.cell k).score < (n.cell k).required ∧ (n.cell k).required ≤ scoreOf n k (n.cell k)

theorem evaluate_eq (e : Env) {k : Nat} {n : Net} (h : n.Canonical) : evaluate e k n =
    if (n.cell k).active && decide ((n.cell k).score < (n.cell k).required) &&
      decide ((n.cell k).required ≤ scoreOf n k (n.cell k)) then locate e k (rescore k n) else rescore k n := by
  have scored : (rescore k n).cell k = { n.cell k with score := scoreOf n k (n.cell k) } := h.cell_setCell_same k _
  unfold evaluate
  dsimp only
  rw [scored]

theorem evaluate_locates (e : Env) {k : Nat} {n : Net} (h : n.Canonical) (active : (n.cell k).active = true) (rises : n.Rises k) :
    evaluate e k n = locate e k (rescore k n) := by
  obtain ⟨below, reached⟩ := rises
  rw [evaluate_eq e h, if_pos (by simp [active, below, reached])]

theorem evaluate_scores (e : Env) {k : Nat} {n : Net} (h : n.Canonical) (waits : (n.cell k).active = false ∨ ¬ n.Rises k) :
    evaluate e k n = rescore k n := by
  rw [evaluate_eq e h, if_neg]
  intro runs
  simp only [Bool.and_eq_true, decide_eq_true_eq] at runs
  obtain ⟨⟨active, below⟩, reached⟩ := runs
  rcases waits with inactive | stays
  · exact Bool.false_ne_true (inactive.symm.trans active)
  · exact stays ⟨below, reached⟩

/-! ### Sensor notices (R58, R59, R65) -/

theorem masked_iff (n : Net) (x : Sensor) : masked n x = true ↔ x.tag ≠ .empty ∧
    ((x.kind = .pressure ∧ (n.node x.site).owner ≠ none) ∨ (x.kind = .flow ∧ (n.pipe x.site).owner ≠ none)) := by
  unfold masked
  cases kind : x.kind <;> simp [Option.isSome_iff_ne_none]

theorem showSensor_eq (j : Nat) (n : Net) : showSensor j n = n.setSensor j { n.sensor j with
    shown := decide ((n.sensor j).state = .tripped ∧ masked n (n.sensor j) = false) } := by
  unfold showSensor modSensor
  rw [Bool.decide_and, Bool.decide_eq_false]

theorem cellsOf_enumerates {n : Net} (h : n.Canonical) (j : Nat) : Enumerates (cellsOf n j) fun k =>
    (n.cell k).tag = .adopted ∧ ((n.sensor j).cell = k ∨ ∃ m ∈ (n.cell k).meters, m.sensor = j) := by
  have found := idsWhere_enumerates (d := Cell.atReset) (t := n.cells) (p := fun k c => c.tag = .adopted &&
    ((n.sensor j).cell == k || c.meters.any fun m => m.sensor == j)) h.cells fun _ => Bool.false_and _
  refine ⟨found.1, fun k => (found.2 k).trans ?_⟩
  simp only [Bool.and_eq_true, Bool.or_eq_true, decide_eq_true_eq, beq_iff_eq, any_meter_iff]
  rfl

theorem takeCell_metered (e : Env) {j k : Nat} {n : Net} (h : ∃ m ∈ (n.cell k).meters, m.sensor = j) :
    takeCell e j k n = evaluate e k (recompute e k n) := by
  unfold takeCell
  rw [if_pos (any_meter_iff.2 h)]

theorem takeCell_unmetered (e : Env) {j k : Nat} {n : Net} (h : ∀ m ∈ (n.cell k).meters, m.sensor ≠ j) :
    takeCell e j k n = evaluate e k n := by
  unfold takeCell
  rw [if_neg fun metered => ?_]
  obtain ⟨m, member, same⟩ := any_meter_iff.1 metered
  exact h m member same

/-- Settles O24: the timer, the score by the cell's state, the Locator by the rise of the score, and a sensor notice cell by cell. -/
theorem cellTimerTripsTheCell : Obligations.CellTimerTripsTheCell := by
  refine ⟨?_, ?_, ?_⟩
  · intro s cell released k c
    exact ⟨fun watch due => congrArg _ (expire_taken released (x := .cellPersistence k) (tripCell_due watch due)),
      fun settled idle => congrArg _ (expire_nothing released (x := .cellPersistence k) settled (tripCell_idle idle))⟩
  · intro e k n canonical c score scored rises shown
    exact ⟨scoreOf_tripped n k, scoreOf_watching n k, scoreOf_inactive n k, evaluate_locates e canonical,
      evaluate_scores e canonical⟩
  · intro e j n canonical x
    obtain ⟨ascending, named⟩ := cellsOf_enumerates canonical j
    refine ⟨?_, masked_iff n x, ascending, named, fun k => ⟨takeCell_metered e, takeCell_unmetered e⟩⟩
    rw [takeSensorNotice, showSensor_eq]

end Sys2Proof.Machine
end

section
/-! SUPPORT. What a claim writes and whom it concerns, and the opening of an incident with its walk (R58, R59, R80, R82, R84, R85,
R104). -/

namespace Sys2Proof.Machine

/-! ### Claims (R80, R82) -/

section

variable {n : Net} (h : n.Canonical) (i level k j : Nat)
include h

theorem node_claimNode : (claimNode i level k n).node j =
    if j = k then { n.node k with owner := some ⟨i, level⟩ } else n.node j := h.node_setNode k j _

theorem pipe_claimPipe : (claimPipe i level k n).pipe j =
    if j = k then { n.pipe k with owner := some ⟨i, level⟩ } else n.pipe j := h.pipe_setPipe k j _

theorem incident_claimNode : (claimNode i level k n).incident j =
    if j = i then { n.incident i with frames := (n.incident i).frames.modify level fun f =>
      { f with regionNodes := f.regionNodes + 1 } } else n.incident j := h.incident_setIncident i j _

theorem incident_claimPipe : (claimPipe i level k n).incident j =
    if j = i then { n.incident i with frames := (n.incident i).frames.modify level fun f =>
      { f with regionPipes := f.regionPipes + 1 } } else n.incident j := h.incident_setIncident i j _

/-- A claimed node gives notices of the ADOPTED PRESSURE sensors sited at it (R58, R59). -/
theorem mem_claimNode_sensors : j ∈ (claimNode i level k n).agenda.sensors ↔ j ∈ n.agenda.sensors ∨
    ((n.sensor j).tag = .adopted ∧ (n.sensor j).kind = .pressure ∧ (n.sensor j).site = k) := by
  refine (mem_noteSensors _ _ j).trans (or_comm.trans (or_congr Iff.rfl ?_))
  rw [mem_sensorsSited h]
  simp

/-- A claimed pipe gives notices of the ADOPTED FLOW sensors sited at it (R58, R59). -/
theorem mem_claimPipe_sensors : j ∈ (claimPipe i level k n).agenda.sensors ↔ j ∈ n.agenda.sensors ∨
    ((n.sensor j).tag = .adopted ∧ (n.sensor j).kind = .flow ∧ (n.sensor j).site = k) := by
  refine (mem_noteSensors _ _ j).trans (or_comm.trans (or_congr Iff.rfl ?_))
  rw [mem_sensorsSited h]
  simp

end

/-! ### The level-0 walk queued (R84, R104, R105) -/

/-- A level-0 walk joins the queue of a busy walker. -/
theorem queueJob_walk_busy (e : Env) (i : Nat) {n : Net} (busy : n.walker ≠ none) : queueJob e (.boundary i 0) n =
    setMarker (.boundary i 0) .queued { n with jobs := n.jobs ++ [.boundary i 0] } :=
  queueJob_busy e _ (Option.isSome_iff_ne_none.2 busy)

/-- The level-0 walk of an incident that is not FAILED starts at once on an idle walker, for whom no job waits. -/
theorem queueJob_walk_idle (e : Env) {i : Nat} {n : Net} (h : n.Canonical) (working : n.Working) (idle : n.walker = none)
    (sound : (n.incident i).state ≠ .failed) : queueJob e (.boundary i 0) n =
      setMarker (.boundary i 0) .running { setMarker (.boundary i 0) .queued n with
        jobs := [], walker := some ⟨.boundary i 0, false⟩ } := by
  have jobs : n.jobs = [] := working idle
  have waiting : Net.Canonical { n with jobs := [Job.boundary i 0] } := h.congr rfl rfl rfl rfl rfl rfl rfl
  have kept : ¬ dropsAtStart (setMarker (.boundary i 0) .queued { n with jobs := [.boundary i 0] }) (.boundary i 0) = true := by
    rw [dropsAtStart_congr fun k => (setMarker_incident waiting _ _ k).1]
    exact fun failed => sound (of_decide_eq_true failed)
  unfold queueJob
  rw [jobs, List.nil_append, startJobs_starts e (by rw [setMarker_walker]; exact idle) (setMarker_jobs ..) kept,
    startJob_plain e (fun _ _ => by simp)]
  rfl

section

variable (e : Env) {i : Nat} {n : Net} (h : n.Canonical) (working : n.Working) (sound : (n.incident i).state ≠ .failed)
include h working sound

/-- A queued walk marks its incident QUEUED, or RUNNING when it starts at once, and changes no other record. -/
theorem incident_queueJob_walk (j : Nat) : (queueJob e (.boundary i 0) n).incident j =
    if j = i then { n.incident i with marker := if n.walker = none then .running else .queued } else n.incident j := by
  by_cases idle : n.walker = none
  · have queued : (setMarker (.boundary i 0) .queued n).Canonical := canonical_setMarker h _ _
    have started : Net.Canonical { setMarker (.boundary i 0) .queued n with
      jobs := [], walker := some ⟨.boundary i 0, false⟩ } := queued.congr rfl rfl rfl rfl rfl rfl rfl
    rw [queueJob_walk_idle e h working idle sound, if_pos idle]
    refine (started.incident_setIncident i j _).trans ?_
    show (if j = i then { (setMarker (.boundary i 0) .queued n).incident i with marker := .running }
      else (setMarker (.boundary i 0) .queued n).incident j) = _
    simp only [setMarker, modIncident, h.incident_setIncident]
    split <;> rfl
  · rw [queueJob_walk_busy e i idle, if_neg idle]
    exact (Net.Canonical.congr h rfl rfl rfl rfl rfl rfl rfl : Net.Canonical { n with jobs := _ }).incident_setIncident i j _

theorem causes_queueJob_walk : (queueJob e (.boundary i 0) n).causes = n.causes := by
  by_cases idle : n.walker = none
  · rw [queueJob_walk_idle e h working idle sound]
    rfl
  · rw [queueJob_walk_busy e i idle]
    rfl

theorem queueJob_walk_starts (idle : n.walker = none) : (queueJob e (.boundary i 0) n).walker = some ⟨.boundary i 0, false⟩ ∧
    (queueJob e (.boundary i 0) n).jobs = [] := by
  rw [queueJob_walk_idle e h working idle sound]
  exact ⟨rfl, rfl⟩

end

theorem queueJob_walk_waits (e : Env) (i : Nat) {n : Net} (busy : n.walker ≠ none) :
    (queueJob e (.boundary i 0) n).walker = n.walker ∧
    (queueJob e (.boundary i 0) n).jobs = n.jobs ++ [.boundary i 0] := by
  rw [queueJob_walk_busy e i busy]
  exact ⟨rfl, rfl⟩

/-! ### The opening (R85) -/

/-- The blocks with the record of an opening written and its origin claimed, before its walk is queued (R85). -/
def originClaimed (e : Env) (i : Nat) (o : Opening) (n : Net) : Net :=
  claimNode i 0 o.node (modIncident i (fun r => r.opened o e.time) n)

theorem openIncident_eq (e : Env) (i : Nat) (o : Opening) (n : Net) :
    openIncident e i o n = raise e .opened i o.node (queueJob e (.boundary i 0) (originClaimed e i o n)) := rfl

section

variable (e : Env) (i : Nat) (o : Opening) {n : Net} (h : n.Canonical)
include h

theorem originClaimed_canonical : (originClaimed e i o n).Canonical :=
  (((Keeps.refl n).modIncident i _).claimNode i 0 o.node).canonical h

theorem originClaimed_incident (j : Nat) : (originClaimed e i o n).incident j =
    if j = i then { (n.incident i).opened o e.time with frames := [⟨0, [], [o.node], [], 1, 0, false⟩] } else n.incident j := by
  have written : (modIncident i (fun r => r.opened o e.time) n).Canonical := h.setIncident ..
  unfold originClaimed
  rw [incident_claimNode written]
  simp only [modIncident, h.incident_setIncident]
  split <;> rfl

theorem originClaimed_node (j : Nat) : (originClaimed e i o n).node j =
    if j = o.node then { n.node o.node with owner := some ⟨i, 0⟩ } else n.node j :=
  node_claimNode (h.setIncident ..) i 0 o.node j

theorem originClaimed_sensors (j : Nat) : j ∈ (originClaimed e i o n).agenda.sensors ↔ j ∈ n.agenda.sensors ∨
    ((n.sensor j).tag = .adopted ∧ (n.sensor j).kind = .pressure ∧ (n.sensor j).site = o.node) :=
  mem_claimNode_sensors (h.setIncident ..) i 0 o.node j

end

/-- Settles O29: the record and the claim of the origin, then the walk, which marks the record and no more, then the raise. -/
theorem openingWritesTheIncident : Obligations.OpeningWritesTheIncident := by
  intro e i o n canonical working t
  have claimed := originClaimed_canonical e i o canonical
  have works : (originClaimed e i o n).Working := working
  have searching : ((originClaimed e i o n).incident i).state ≠ .failed := by
    rw [originClaimed_incident e i o canonical, if_pos rfl]
    exact IncidentState.noConfusion
  have incident : ∀ j, t.incident j = if j = i then { (originClaimed e i o n).incident i with
      marker := if n.walker = none then .running else .queued } else (originClaimed e i o n).incident j :=
    incident_queueJob_walk e claimed works searching
  have workless : t.node = (originClaimed e i o n).node :=
    (congrArg Net.node (workless_queueJob e (.boundary i 0) (originClaimed e i o n)) :)
  have agenda : t.agenda = (originClaimed e i o n).agenda :=
    (congrArg Net.agenda (workless_queueJob e (.boundary i 0) (originClaimed e i o n)) :)
  have queued := ((Keeps.refl _).queueJob e (.boundary i 0)).canonical claimed
  refine ⟨?_, fun j other => ?_, ?_, fun j other => ?_, fun j => ?_,
    fun idle => queueJob_walk_starts e claimed works searching idle, fun busy => queueJob_walk_waits e i busy, ?_⟩
  · rw [incident, if_pos rfl, originClaimed_incident e i o canonical, if_pos rfl]
    rfl
  · rw [incident, if_neg other, originClaimed_incident e i o canonical, if_neg other]
  · rw [workless, originClaimed_node e i o canonical, if_pos rfl]
  · rw [workless, originClaimed_node e i o canonical, if_neg other]
  · rw [agenda, originClaimed_sensors e i o canonical]
  · have before : (queueJob e (.boundary i 0) (originClaimed e i o n)).cause 1 = n.cause 1 :=
      congrArg (lookup CauseRecord.atReset · 1) (causes_queueJob_walk e claimed works searching)
    have raised : t.cause 1 = _ := cause_raise queued e .opened i o.node
    rw [raised, show Cause.opened.number = 1 from rfl, before]
    rfl

end Sys2Proof.Machine
end

section
/-! SUPPORT. What a boundary walk does with each node, pipe and valve that it meets, and what a gained holder does to the valve (R83, R108
to R114, R174). -/

namespace Sys2Proof.Machine

/-! ### Arrivals (R108, R109) -/

section

variable (e : Env) {w : Walk} {x : Nat}

theorem Walk.arrival_source (kind : (w.net.node x).kind = .source) : w.arrival x = .source := if_pos kind

theorem Walk.seed_ended (ended : w.ended = true) : w.seed e x = w := if_pos ended

section

variable (kind : (w.net.node x).kind = .junction)
include kind

theorem Walk.arrival_unowned (owner : (w.net.node x).owner = none) : w.arrival x = .unowned := by
  simp [Walk.arrival, kind, owner]

variable {o : Owner} (owner : (w.net.node x).owner = some o)
include owner

theorem Walk.arrival_own (own : o.incident = w.incident) : w.arrival x = .own := by
  simp [Walk.arrival, kind, owner, own]

variable (other : o.incident ≠ w.incident)
include other

theorem Walk.arrival_wall (failed : (w.net.incident w.incident).state = .failed) : w.arrival x = .wall := by
  simp [Walk.arrival, kind, owner, other, Walk.failed, failed]

theorem Walk.arrival_merge (sound : (w.net.incident w.incident).state ≠ .failed) : w.arrival x = .merge o.incident := by
  simp [Walk.arrival, kind, owner, other, Walk.failed, sound]

end

/-- A node is judged the walk's own only when the walking incident owns it. -/
theorem Walk.arrival_ne_own (h : (w.net.node x).kind = .source ∨ ∀ o, (w.net.node x).owner = some o → o.incident ≠ w.incident) :
    w.arrival x ≠ .own := by
  unfold Walk.arrival
  dsimp only
  split
  · exact Arrival.noConfusion
  · next inside =>
    split
    · exact Arrival.noConfusion
    · next o owner =>
      rw [if_neg ((h.resolve_left inside) o owner)]
      split <;> exact Arrival.noConfusion

/-! ### The walk arrives at a node (R109, R112) -/

theorem Walk.arrive_source (h : w.arrival x = .source) : w.arrive e x = w.stop e .sourceInside := by
  unfold Walk.arrive
  rw [h]

theorem Walk.arrive_own (h : w.arrival x = .own) : w.arrive e x = w := by
  unfold Walk.arrive
  rw [h]

theorem Walk.arrive_wall (h : w.arrival x = .wall) : w.arrive e x = w := by
  unfold Walk.arrive
  rw [h]

theorem Walk.arrive_merge {j : Nat} (h : w.arrival x = .merge j) : w.arrive e x = w.merge e j := by
  unfold Walk.arrive
  rw [h]

theorem Walk.arrive_unowned (h : w.arrival x = .unowned) : w.arrive e x =
    if 512 ≤ (w.net.incident w.incident).ownedNodes then w.stop e .regionLimit else w.claim x := by
  unfold Walk.arrive
  rw [h]
  simp only [Walk.nodesFull, decide_eq_true_eq]
  rfl

/-- A node that the walking incident owns, or that stands as a wall to a FAILED one, is passed by (R109). -/
theorem Walk.arrive_passes {o : Owner} (kind : (w.net.node x).kind = .junction) (owner : (w.net.node x).owner = some o)
    (stays : o.incident = w.incident ∨ (w.net.incident w.incident).state = .failed) : w.arrive e x = w := by
  by_cases own : o.incident = w.incident
  · exact Walk.arrive_own e (Walk.arrival_own kind owner own)
  · exact Walk.arrive_wall e (Walk.arrival_wall kind owner own (stays.resolve_left own))

theorem Walk.seed_own (running : w.ended = false) (own : w.arrival x = .own) :
    w.seed e x = { w with frontier := w.frontier ++ [x] } := by
  unfold Walk.seed
  rw [if_neg (Bool.eq_false_iff.1 running), if_pos own]

theorem Walk.seed_arrives (running : w.ended = false) (other : w.arrival x ≠ .own) : w.seed e x = w.arrive e x := by
  unfold Walk.seed
  rw [if_neg (Bool.eq_false_iff.1 running), if_neg other]

end

/-! ### Pipes (R110, R112) -/

section

variable (e : Env) {w : Walk} {p far : Nat}

theorem Walk.takePipe_owned {o : Owner} (owner : (w.net.pipe p).owner = some o) : w.takePipe e p far =
    if o.incident = w.incident ∨ (w.net.incident w.incident).state = .failed then w else w.merge e o.incident := by
  unfold Walk.takePipe
  rw [owner]
  simp only [Walk.failed, decide_eq_true_eq]

variable (unowned : (w.net.pipe p).owner = none)
include unowned

theorem Walk.takePipe_source (h : w.arrival far = .source) : w.takePipe e p far = w.stop e .sourceInside := by
  unfold Walk.takePipe
  rw [unowned]
  dsimp only
  rw [h]

theorem Walk.takePipe_wall (h : w.arrival far = .wall) : w.takePipe e p far = w := by
  unfold Walk.takePipe
  rw [unowned]
  dsimp only
  rw [h]

theorem Walk.takePipe_own (h : w.arrival far = .own) : w.takePipe e p far =
    if 512 ≤ (w.net.incident w.incident).ownedPipes then w.stop e .regionLimit else w.claimPipe p := by
  unfold Walk.takePipe
  rw [unowned]
  dsimp only
  rw [h]
  simp only [Walk.pipesFull, decide_eq_true_eq]
  rfl

theorem Walk.takePipe_merge {j : Nat} (h : w.arrival far = .merge j) : w.takePipe e p far =
    if 512 ≤ (w.net.incident w.incident).ownedPipes then w.stop e .regionLimit else (w.claimPipe p).merge e j := by
  unfold Walk.takePipe
  rw [unowned]
  dsimp only
  rw [h]
  simp only [Walk.pipesFull, decide_eq_true_eq]
  rfl

theorem Walk.takePipe_unowned (h : w.arrival far = .unowned) : w.takePipe e p far =
    if 512 ≤ (w.net.incident w.incident).ownedPipes ∨ 512 ≤ (w.net.incident w.incident).ownedNodes
    then w.stop e .regionLimit else (w.claimPipe p).claim far := by
  unfold Walk.takePipe
  rw [unowned]
  dsimp only
  rw [h]
  simp only [Walk.pipesFull, Walk.nodesFull, Bool.or_eq_true, decide_eq_true_eq]
  rfl

/-- A claim of a pipe beyond the limit ends the walk, whatever lies beyond it but a SOURCE or a wall (R112). -/
theorem Walk.takePipe_full (kind : (w.net.node far).kind = .junction)
    (passable : ∀ o, (w.net.node far).owner = some o → o.incident = w.incident ∨ (w.net.incident w.incident).state ≠ .failed)
    (full : 512 ≤ (w.net.incident w.incident).ownedPipes) : w.takePipe e p far = w.stop e .regionLimit := by
  cases owner : (w.net.node far).owner with
  | none => rw [Walk.takePipe_unowned e unowned (Walk.arrival_unowned kind owner), if_pos (.inl full)]
  | some o =>
    by_cases own : o.incident = w.incident
    · rw [Walk.takePipe_own e unowned (Walk.arrival_own kind owner own), if_pos full]
    · rw [Walk.takePipe_merge e unowned (Walk.arrival_merge kind owner own ((passable o owner).resolve_left own)), if_pos full]

end

/-! ### Valves (R111, R112) -/

theorem usable_iff (n : Net) (i v : Nat) : usable n i v = true ↔ (n.valve v).tag = .adopted ∧
    ((n.valve v).health = .good ∨ (n.valve v).health = .untested) ∧ (∀ f ∈ (n.incident i).frames, v ∉ f.causes) ∧
    v ∉ (n.incident i).pendingCauses := by
  simp [usable, and_assoc]

theorem Walk.boundaryFull_iff (w : Walk) : w.boundaryFull = true ↔
    ∃ f, (w.net.incident w.incident).frames[w.level]? = some f ∧ 16 ≤ f.boundary.length := by
  unfold Walk.boundaryFull
  cases (w.net.incident w.incident).frames[w.level]? with
  | none => simp
  | some f => exact ⟨fun full => ⟨f, rfl, of_decide_eq_true full⟩, fun ⟨_, same, full⟩ => by cases same; exact decide_eq_true full⟩

section

variable (e : Env) {w : Walk} {v : Nat} (far : Nat)

theorem Walk.takeValve_listed (listed : (w.net.incident w.incident).lists v = true) : w.takeValve e v far = w := if_pos listed

variable (unlisted : ¬ (w.net.incident w.incident).lists v = true)
include unlisted

theorem Walk.takeValve_usable (use : usable w.net w.incident v = true) : w.takeValve e v far =
    if w.boundaryFull = true then w.stop e .boundaryFull else w.hold e v :=
  (if_neg unlisted).trans (if_pos use)

theorem Walk.takeValve_crossed (useless : ¬ usable w.net w.incident v = true) : w.takeValve e v far = w.arrive e far :=
  (if_neg unlisted).trans (if_neg useless)

end

/-! ### Edges and the frontier (R108) -/

section

variable (e : Env) {w : Walk}

theorem Walk.takeEdge_ended (d : Edge) (ended : w.ended = true) : w.takeEdge e d = w := if_pos ended

theorem Walk.takeEdge_pipe {d : Edge} (running : w.ended = false) (kind : d.kind = .pipe) :
    w.takeEdge e d = w.takePipe e d.id d.far := by
  unfold Walk.takeEdge
  rw [if_neg (Bool.eq_false_iff.1 running), kind]

theorem Walk.takeEdge_valve {d : Edge} (running : w.ended = false) (kind : d.kind = .valve) :
    w.takeEdge e d = w.takeValve e d.id d.far := by
  unfold Walk.takeEdge
  rw [if_neg (Bool.eq_false_iff.1 running), kind]

theorem Walk.spread_done (k : Nat) (done : w.frontier = [] ∨ w.ended = true) : w.spread e k = w := by
  cases k with
  | zero => rfl
  | succ k =>
    unfold Walk.spread
    split
    · rfl
    · next frontier =>
      rw [if_pos (done.resolve_left (by rw [frontier]; exact List.cons_ne_nil _ _))]

theorem Walk.spread_next (k : Nat) {x : Nat} {xs : List Nat} (running : w.ended = false) (frontier : w.frontier = x :: xs) :
    w.spread e (k + 1) = Walk.spread e k ((w.net.node x).edges.foldl (fun w d => w.takeEdge e d) { w with frontier := xs }) := by
  rw [Walk.spread, frontier]
  exact if_neg (Bool.eq_false_iff.1 running)

end

/-! ### Incidents that end (R96, R99, R101, R112) -/

section

variable (e : Env) {i : Nat} {n : Net}

theorem enterFailed_again (why : FailReason) (failed : (n.incident i).state = .failed) : enterFailed e i why n = n := if_pos failed

variable (h : n.Canonical)
include h

theorem incident_enterFailed (why : FailReason) (sound : (n.incident i).state ≠ .failed) : (enterFailed e i why n).incident i =
    { n.incident i with state := .failed, failReason := why, holdTimer := none, holdReason := .none } := by
  unfold enterFailed
  rw [if_neg sound, incident_noteIncident, raise_incident]
  exact h.incident_setIncident_same ..

theorem cause_enterFailed (why : FailReason) (sound : (n.incident i).state ≠ .failed) : (enterFailed e i why n).cause 5 =
    { n.cause 5 with flag := true, count := satInc (n.cause 5).count, time := e.time, subject := BitVec.ofNat 32 i
                     detail := BitVec.ofNat 32 why.code } := by
  unfold enterFailed
  rw [if_neg sound, noteIncident_cause]
  exact cause_raise (h.setIncident ..) e .failed ..

theorem incident_enterFree (j : Nat) : (enterFree e i n).incident j = if j = i then (n.incident i).freed else n.incident j := by
  unfold enterFree
  rw [incident_noteIncident, raise_incident]
  exact h.incident_setIncident ..

omit h in
theorem valve_enterFree (v : Nat) : (enterFree e i n).valve v = n.valve v := by
  unfold enterFree noteIncident
  split <;> rfl

end

/-! ### A gained holder (R83, R114, R174) -/

section

variable (e : Env) {v : Nat} {n : Net}

theorem holderGained_closing (closing : (n.valve v).inCloseStroke = true) :
    holderGained e v n = endReleaseOwner e v .reclaimed n := by
  unfold holderGained
  dsimp only
  rw [if_pos closing]

theorem holderGained_stops (moving : (n.valve v).inStroke = true) (other : (n.valve v).purpose ≠ .close) : holderGained e v n =
    endReleaseOwner e v .reclaimed (abortTest e v (n.valve v) .holderGained
      (stopStroke e v (n.setValve v { n.valve v with control := .controlled }))) := by
  unfold holderGained
  dsimp only
  rw [if_neg fun closing => other ((Valve.inCloseStroke_and _).1 closing).2, if_pos moving]
  rfl

variable (resting : (n.valve v).inStroke = false)
include resting

/-- A valve in no stroke comes under control, with a HOLD image when it was FREE (R114). -/
theorem holderGained_resting : holderGained e v n = endReleaseOwner e v .reclaimed (match (n.valve v).control with
    | .free => n.setValve v { n.valve v with control := .controlled }.hold
    | .handbackPending => n.setValve v { n.valve v with control := .controlled }
    | .controlled => n) := by
  unfold holderGained
  dsimp only
  rw [if_neg (by simp [Valve.inCloseStroke, resting]), if_neg (Bool.eq_false_iff.1 resting)]
  rfl

theorem holderGained_free (control : (n.valve v).control = .free) : holderGained e v n = endReleaseOwner e v .reclaimed
    (n.setValve v { n.valve v with
      control := .controlled, imageSeq := (n.valve v).imageSeq + 1
      image := some ⟨(n.valve v).holdTarget, 0, .none, (n.valve v).imageSeq + 1, .hold, false⟩ }) := by
  rw [holderGained_resting e resting, control]
  rfl

theorem holderGained_handback (control : (n.valve v).control = .handbackPending) :
    holderGained e v n = endReleaseOwner e v .reclaimed (n.setValve v { n.valve v with control := .controlled }) := by
  rw [holderGained_resting e resting, control]

theorem holderGained_controlled (control : (n.valve v).control = .controlled) :
    holderGained e v n = endReleaseOwner e v .reclaimed n := by
  rw [holderGained_resting e resting, control]

end

section

variable (e : Env) {n : Net} (h : n.Canonical) (k : Nat) (part : ReleasePart)
include h

theorem incident_countRelease : (countRelease e k part n).incident k =
    let counted := { n.incident k with reopen := (n.incident k).reopen - 1, tally := (n.incident k).tally.add part }
    if (n.incident k).state = .releasing ∧ (n.incident k).reopen - 1 = 0 then counted.freed else counted := by
  rw [countRelease_eq e part h]
  split
  · rw [incident_enterFree e (h.setIncident ..), if_pos rfl, h.incident_setIncident_same]
  · exact h.incident_setIncident_same ..

theorem valve_countRelease (v : Nat) : (countRelease e k part n).valve v = n.valve v := by
  rw [countRelease_eq e part h]
  split
  · exact valve_enterFree e v
  · rfl

/-- A valve that loses its release owner is counted there, and the last one frees a releasing incident (R99). -/
theorem endReleaseOwner_counts {v : Nat} (owner : (n.valve v).releaseOwner = some k) :
    (endReleaseOwner e v part n).valve v = { n.valve v with releaseOwner := none } ∧
    ((endReleaseOwner e v part n).incident k).reopen = (n.incident k).reopen - 1 ∧
    ((endReleaseOwner e v part n).incident k).tally = (n.incident k).tally.add part ∧
    ((endReleaseOwner e v part n).incident k).state =
      if (n.incident k).state = .releasing ∧ (n.incident k).reopen - 1 = 0 then .free else (n.incident k).state := by
  have disowned := h.setValve v { n.valve v with releaseOwner := none }
  rw [endReleaseOwner_some e part owner, valve_countRelease e disowned, incident_countRelease e disowned, setValve_incident,
    h.valve_setValve_same]
  refine ⟨rfl, ?_⟩
  dsimp only
  split <;> exact ⟨rfl, rfl, rfl⟩

end

/-- Settles O51: each clause by the judgement of what the walk meets, and by what a claim, a failure and a gained holder write. -/
theorem walkTakesNodesPipesAndValves : Obligations.WalkTakesNodesPipesAndValves := by
  refine ⟨?_, fun e i level n => rfl, fun i level k n canonical => ?_,
    fun v l ascending => ⟨insertAsc_rises ascending, fun u => mem_insertAsc v u l⟩, fun e i why n canonical => ?_,
    fun e v n canonical => ?_⟩
  · intro e w i r stop claimed piped
    refine ⟨?_, ?_, ?_, fun d => ⟨Walk.takeEdge_ended e d, Walk.takeEdge_pipe e, Walk.takeEdge_valve e⟩,
      fun k => ⟨Walk.spread_done e k, fun x xs => Walk.spread_next e k⟩⟩
    · intro x y
      refine ⟨fun kind => Walk.arrive_source e (Walk.arrival_source kind), fun o => Walk.arrive_passes e,
        fun o kind owner other sound => Walk.arrive_merge e (Walk.arrival_merge kind owner other sound),
        fun kind owner full => ?_, fun kind owner room => ?_, Walk.seed_ended e,
        fun o running kind owner own => Walk.seed_own e running (Walk.arrival_own kind owner own),
        fun running other => Walk.seed_arrives e running (Walk.arrival_ne_own other)⟩
      · exact (Walk.arrive_unowned e (Walk.arrival_unowned kind owner)).trans (if_pos full)
      · exact (Walk.arrive_unowned e (Walk.arrival_unowned kind owner)).trans (if_neg (Nat.not_le.2 room))
    · intro p far q y
      refine ⟨fun o owner stays => (Walk.takePipe_owned e owner).trans (if_pos stays),
        fun o owner other sound => (Walk.takePipe_owned e owner).trans (if_neg (not_or_intro other sound)), fun unowned =>
        ⟨fun kind => Walk.takePipe_source e unowned (Walk.arrival_source kind),
          fun o kind owner other failed => Walk.takePipe_wall e unowned (Walk.arrival_wall kind owner other failed),
          Walk.takePipe_full e unowned, fun o kind owner own room => ?_, fun o kind owner other sound room => ?_,
          fun kind owner full => ?_, fun kind owner roomPipes roomNodes => ?_⟩⟩
      · exact (Walk.takePipe_own e unowned (Walk.arrival_own kind owner own)).trans (if_neg (Nat.not_le.2 room))
      · exact (Walk.takePipe_merge e unowned (Walk.arrival_merge kind owner other sound)).trans (if_neg (Nat.not_le.2 room))
      · exact (Walk.takePipe_unowned e unowned (Walk.arrival_unowned kind owner)).trans (if_pos (.inr full))
      · exact (Walk.takePipe_unowned e unowned (Walk.arrival_unowned kind owner)).trans
          (if_neg (not_or_intro (Nat.not_le.2 roomPipes) (Nat.not_le.2 roomNodes)))
    · intro v far x listed use full
      have unlisted : ¬ listed → ¬ r.lists v = true := mt (r.lists_iff v).1
      refine ⟨fun found => Walk.takeValve_listed e far ((r.lists_iff v).2 found), fun new useful capped => ?_,
        fun new useful room => ?_, fun new useless => ?_⟩
      · exact (Walk.takeValve_usable e far (unlisted new) ((usable_iff ..).2 useful)).trans (if_pos (w.boundaryFull_iff.2 capped))
      · exact (Walk.takeValve_usable e far (unlisted new) ((usable_iff ..).2 useful)).trans
          (if_neg (mt w.boundaryFull_iff.1 room))
      · exact Walk.takeValve_crossed e far (unlisted new) (mt (usable_iff ..).1 useless)
  · refine ⟨(node_claimNode canonical i level k k).trans (if_pos rfl),
      fun j other => (node_claimNode canonical i level k j).trans (if_neg other),
      (incident_claimNode canonical i level k i).trans (if_pos rfl),
      fun j other => (incident_claimNode canonical i level k j).trans (if_neg other),
      (pipe_claimPipe canonical i level k k).trans (if_pos rfl),
      fun j other => (pipe_claimPipe canonical i level k j).trans (if_neg other),
      (incident_claimPipe canonical i level k i).trans (if_pos rfl),
      fun j other => (incident_claimPipe canonical i level k j).trans (if_neg other),
      fun j => ⟨mem_claimNode_sensors canonical i level k j, mem_claimPipe_sensors canonical i level k j⟩⟩
  · refine ⟨enterFailed_again e why, fun sound => ⟨incident_enterFailed e canonical why sound, ?_⟩⟩
    rw [cause_enterFailed e canonical why sound]
    exact ⟨rfl, rfl, rfl⟩
  · exact ⟨fun closing => holderGained_closing e ((Valve.inCloseStroke_and _).2 closing), holderGained_stops e,
      holderGained_free e, holderGained_handback e, holderGained_controlled e, endReleaseOwner_none e .reclaimed,
      fun k owner => endReleaseOwner_counts e canonical k .reclaimed owner⟩

end Sys2Proof.Machine
end

section
/-! SUPPORT. The release of an incident: the request judged, what a cleared claim concerns, what each step leaves of the ground, of the
work and of the record (R58, R59, R82, R98, R99, R101, R107; log 17, 22). -/

namespace Sys2Proof.Machine

/-! ### The request judged (R98) -/

section

variable (e : Env) {i : Nat} {n : Net}

theorem requestRelease_badId (h : 8 ≤ i) : requestRelease e i n = refuse n .badId := if_pos h

variable (hi : i < 8)
include hi

theorem requestRelease_wrongState (h : (n.incident i).state = .free ∨ (n.incident i).state = .releasing) :
    requestRelease e i n = refuse n .wrongState (n.incident i).state.code :=
  (if_neg (Nat.not_le.2 hi)).trans (if_pos h)

theorem requestRelease_taken (standing : (n.incident i).state ≠ .free) (held : (n.incident i).state ≠ .releasing) :
    requestRelease e i n = accept (releaseIncident e i n) (releaseCount e i n) :=
  (if_neg (Nat.not_le.2 hi)).trans (if_neg (not_or_intro standing held))

end

/-! ### Valves let go (R98) -/

theorem opensOnLoss_iff (n : Net) (v : Nat) :
    opensOnLoss n v = true ↔ (n.valve v).normal = .opened ∧ (n.valve v).confirmedOpen n.params = false := by
  simp [opensOnLoss]

/-! ### Notices of cleared claims (R58, R59, R82) -/

/-- A claim left by the clearing, as the statements spell it. -/
theorem filter_unmet (p : Owner → Bool) (o : Option Owner) : (o.filter fun w => !p w) = match o with
    | some w => if p w then none else some w
    | none => none := by
  cases o with
  | none => rfl
  | some w => cases met : p w <;> simp [Option.filter, met]

/-- A cleared claim gives notices of the ADOPTED sensors sited at its node or pipe. -/
theorem mem_clearOwners_sensors {n : Net} (h : n.Canonical) (p : Owner → Bool) (j : Nat) :
    j ∈ (clearOwners p n).agenda.sensors ↔ j ∈ n.agenda.sensors ∨ ((n.sensor j).tag = .adopted ∧ ∃ o, p o = true ∧
      (((n.sensor j).kind = .pressure ∧ (n.node (n.sensor j).site).owner = some o) ∨
        ((n.sensor j).kind = .flow ∧ (n.pipe (n.sensor j).site).owner = some o))) := by
  refine (mem_noteSensors _ _ j).trans (or_comm.trans (or_congr Iff.rfl ?_))
  rw [mem_sensorsSited h, mem_idsWhere h.nodes fun _ => rfl, mem_idsWhere h.pipes fun _ => rfl]
  change _ ∧ (_ ∧ (match (n.node (n.sensor j).site).owner with | none => false | some w => p w) = true ∨
    _ ∧ (match (n.pipe (n.sensor j).site).owner with | none => false | some w => p w) = true) ↔ _
  refine and_congr_right fun _ => ?_
  cases (n.sensor j).kind with
  | pressure => cases (n.node (n.sensor j).site).owner <;> simp
  | flow => cases (n.pipe (n.sensor j).site).owner <;> simp

/-! ### The detail of FREED (R198) -/

theorem Tally.detail_eq (t : Tally) :
    t.detail = t.opened % 128 + 256 * (t.faulted % 128) + 65536 * (t.reclaimed % 128) := by
  simp only [Tally.detail, packFrom, Nat.shiftLeft_eq]
  omega

/-! ### What letting go of valves leaves alone -/

/-- The ground and the walker's work; the valves, the records and the notices are blanked. -/
def Net.groundAndWork (n : Net) : Net := { n.aside with incidents := [], causes := [] }

theorem groundAndWork_of_aside {n n' : Net} (h : n'.aside = n.aside) : n'.groundAndWork = n.groundAndWork :=
  congrArg (fun m : Net => { m with incidents := [], causes := [] }) h

theorem groundAndWork_noteIncident (i : Nat) (n : Net) : (noteIncident i n).groundAndWork = n.groundAndWork := by
  unfold noteIncident
  split <;> rfl

theorem groundAndWork_enterFree (e : Env) (i : Nat) (n : Net) : (enterFree e i n).groundAndWork = n.groundAndWork :=
  groundAndWork_noteIncident ..

theorem groundAndWork_loseHolder (e : Env) (i v : Nat) (n : Net) : (loseHolder e i v n).groundAndWork = n.groundAndWork := by
  unfold loseHolder
  dsimp only
  split
  · exact groundAndWork_of_aside (aside_stopStroke ..)
  · rfl

theorem groundAndWork_handback (e : Env) (v : Nat) (n : Net) : (handback e v n).groundAndWork = n.groundAndWork := by
  have compared : ∀ m, (memoryCompared e v m).groundAndWork = m.groundAndWork := fun m => by
    unfold memoryCompared
    split <;> rfl
  rw [handback_eq, compared]
  split
  · exact groundAndWork_of_aside (aside_stopStroke ..)
  · rfl

theorem groundAndWork_openRequest (e : Env) (v : Nat) (n : Net) : (openRequest e v n).groundAndWork = n.groundAndWork := by
  unfold openRequest
  split
  · exact groundAndWork_of_aside (aside_joinQueue ..)
  · exact groundAndWork_of_aside (aside_joinQueue ..)
  · rfl

theorem groundAndWork_letGo (e : Env) (owner : Option Nat) (v : Nat) (n : Net) :
    (letGo e owner v n).groundAndWork = n.groundAndWork := by
  unfold letGo
  split
  · exact groundAndWork_openRequest ..
  · exact groundAndWork_handback ..

theorem groundAndWork_loseHolders (e : Env) (i : Nat) (vs : List Nat) (n : Net) :
    (loseHolders e i vs n).groundAndWork = n.groundAndWork :=
  List.foldlRecOn (motive := fun m => m.groundAndWork = n.groundAndWork) vs _ rfl
    fun m same v _ => (groundAndWork_loseHolder e i v m).trans same

theorem groundAndWork_letGo_all (e : Env) (owner : Option Nat) (vs : List Nat) (n : Net) :
    (vs.foldl (fun n v => letGo e owner v n) n).groundAndWork = n.groundAndWork :=
  List.foldlRecOn (motive := fun m => m.groundAndWork = n.groundAndWork) vs _ rfl
    fun m same v _ => (groundAndWork_letGo e owner v m).trans same

/-! ### The release step by step (R98) -/

/-- The record of an incident without hold, job and pending causes. -/
def Incident.unoccupied (r : Incident) : Incident :=
  { r with holdTimer := none, holdReason := .none, marker := .none, pendingCauses := [] }

/-- The blocks with no work left for the incident: its waiting jobs removed, its running one abandoned, its record unoccupied. -/
def workDropped (i : Nat) (n : Net) : Net :=
  Net.setIncident { n with
    jobs := n.jobs.filter fun j => decide (j.incident ≠ some i)
    walker := n.walker.map fun w => if w.job.incident = some i then { w with abandoned := true } else w } i
    (n.incident i).unoccupied

/-- The claims of the incident cleared after that. -/
def claimsDropped (i : Nat) (n : Net) : Net := clearOwners (fun o => o.incident == i) (workDropped i n)

/-- The valves of the incident without its bit after that, and those left with no holder let go for it. -/
def valvesDropped (e : Env) (i : Nat) (n : Net) : Net :=
  (unheldValves (dissolve e i n) ((n.incident i).boundary.map Boundary.valve)).foldl (fun n v => letGo e (some i) v n)
    (dissolve e i n)

/-- The record of an incident in RELEASING that waits for `count` valves. -/
def Incident.releasing (r : Incident) (count : Nat) : Incident :=
  { r with reopen := count, tally := ⟨0, 0, 0⟩, frames := [], depth := 0, state := .releasing }

/-- The incident in RELEASING after that. -/
def releaseEntered (e : Env) (i : Nat) (n : Net) : Net :=
  noteIncident i (modIncident i (fun r => r.releasing (releaseCount e i n)) (valvesDropped e i n))

theorem releaseIncident_eq (e : Env) (i : Nat) (n : Net) : releaseIncident e i n =
    if releaseCount e i n = 0 then enterFree e i (releaseEntered e i n) else releaseEntered e i n := rfl

theorem waiting_dropped_iff (i : Nat) (j : Job) : (j.incident != some i) = decide (j.incident ≠ some i) := by
  by_cases mine : j.incident = some i <;> simp [mine]

section

variable (e : Env) (i : Nat) {n : Net}

theorem workDropped_eq : modIncident i (fun r => { r.unheld with marker := .none, pendingCauses := [] })
    (abandonRunning i (dropWaiting i n)) = workDropped i n := by
  have jobs : (dropWaiting i n).jobs = n.jobs.filter fun j => decide (j.incident ≠ some i) :=
    List.filter_congr fun j _ => waiting_dropped_iff i j
  unfold abandonRunning
  rw [jobs]
  rfl

theorem valvesDropped_incident (j : Nat) : (valvesDropped e i n).incident j = (dissolve e i n).incident j :=
  letGo_all_incident ..

theorem groundAndWork_releaseIncident :
    (releaseIncident e i n).groundAndWork = (releaseEntered e i n).groundAndWork := by
  rw [releaseIncident_eq]
  split
  · exact groundAndWork_enterFree ..
  · rfl

theorem releaseIncident_valve (v : Nat) : (releaseIncident e i n).valve v = (valvesDropped e i n).valve v := by
  have entered : (releaseEntered e i n).valve v = (valvesDropped e i n).valve v := by
    unfold releaseEntered noteIncident
    split <;> rfl
  rw [releaseIncident_eq]
  split
  · rw [valve_enterFree, entered]
  · exact entered

variable (h : n.Canonical)
include h

theorem workDropped_canonical : (workDropped i n).Canonical := by
  rw [← workDropped_eq]
  exact ((((Keeps.refl n).dropWaiting i).abandonRunning i).modIncident i _).canonical h

theorem claimsDropped_canonical : (claimsDropped i n).Canonical :=
  ((Keeps.refl _).clearOwners _).canonical (workDropped_canonical i h)

theorem claimsDropped_incident : (claimsDropped i n).incident i = (n.incident i).unoccupied :=
  Net.Canonical.incident_setIncident_same (Net.Canonical.congr h rfl rfl rfl rfl rfl rfl rfl) i _

/-- Steps 1 to 4 of a release: the valves whose bits are taken are those that the frames listed before. -/
theorem dissolve_eq : dissolve e i n = loseHolders e i ((n.incident i).boundary.map Boundary.valve) (claimsDropped i n) := by
  unfold dissolve
  dsimp only
  rw [workDropped_eq]
  change loseHolders e i (((claimsDropped i n).incident i).boundary.map Boundary.valve) (claimsDropped i n) = _
  rw [claimsDropped_incident i h]
  rfl

theorem dissolve_canonical : (dissolve e i n).Canonical := ((Keeps.refl n).dissolve e i).canonical h

theorem valvesDropped_canonical : (valvesDropped e i n).Canonical :=
  (heldAs_letGo_all (dissolve_canonical e i h) e (some i) _).canonical

theorem releaseEntered_canonical : (releaseEntered e i n).Canonical :=
  (((Keeps.refl _).modIncident i _).noteIncident i).canonical (valvesDropped_canonical e i h)

/-! ### What a release leaves -/

/-- After the claims and the work are dropped, a release changes neither again. -/
theorem releaseIncident_groundAndWork : (releaseIncident e i n).groundAndWork = (claimsDropped i n).groundAndWork := by
  have entered : (releaseEntered e i n).groundAndWork = (valvesDropped e i n).groundAndWork := groundAndWork_noteIncident ..
  have dropped : (valvesDropped e i n).groundAndWork = (dissolve e i n).groundAndWork := groundAndWork_letGo_all ..
  rw [groundAndWork_releaseIncident, entered, dropped, dissolve_eq e i h]
  exact groundAndWork_loseHolders ..

theorem releaseIncident_jobs : (releaseIncident e i n).jobs = n.jobs.filter fun j => decide (j.incident ≠ some i) :=
  (congrArg Net.jobs (releaseIncident_groundAndWork e i h) :)

theorem releaseIncident_walker : (releaseIncident e i n).walker =
    n.walker.map fun w => if w.job.incident = some i then { w with abandoned := true } else w :=
  (congrArg Net.walker (releaseIncident_groundAndWork e i h) :)

/-- No claim of the incident is left on a node. -/
theorem releaseIncident_node {k : Nat} {o : Owner} (owner : ((releaseIncident e i n).node k).owner = some o) : o.incident ≠ i := by
  have ground : (releaseIncident e i n).node k = (claimsDropped i n).node k :=
    congrArg (lookup Node.atReset · k) (congrArg Net.nodes (releaseIncident_groundAndWork e i h) :)
  have left := congrArg Node.owner (ground.trans (node_clearOwners (workDropped_canonical i h) _ k))
  exact ne_of_beq_false (unmet_of_left left owner)

/-- No claim of the incident is left on a pipe. -/
theorem releaseIncident_pipe {k : Nat} {o : Owner} (owner : ((releaseIncident e i n).pipe k).owner = some o) : o.incident ≠ i := by
  have ground : (releaseIncident e i n).pipe k = (claimsDropped i n).pipe k :=
    congrArg (lookup Pipe.atReset · k) (congrArg Net.pipes (releaseIncident_groundAndWork e i h) :)
  have left := congrArg Pipe.owner (ground.trans (pipe_clearOwners (workDropped_canonical i h) _ k))
  exact ne_of_beq_false (unmet_of_left left owner)

/-- The valves of the frames are without the incident's bit, and letting go gives it to none of them. -/
theorem releaseIncident_unheld {b : Boundary} (hb : b ∈ (n.incident i).boundary) :
    i ∉ ((releaseIncident e i n).valve b.valve).holders := by
  rw [releaseIncident_valve]
  unfold valvesDropped
  rw [(heldAs_letGo_all (dissolve_canonical e i h) e (some i) _).holders, dissolve_eq e i h]
  exact loseHolders_unheld (claimsDropped_canonical i h) e i _ _ (.inl (List.mem_map_of_mem hb))

theorem releaseEntered_incident :
    (releaseEntered e i n).incident i = (n.incident i).unoccupied.releasing (releaseCount e i n) := by
  unfold releaseEntered modIncident
  rw [incident_noteIncident, (valvesDropped_canonical e i h).incident_setIncident_same, valvesDropped_incident, dissolve_eq e i h,
    loseHolders_incident, claimsDropped_incident i h]

/-- The record after a release: RELEASING, or FREE when no valve is waited for. -/
theorem releaseIncident_incident : (releaseIncident e i n).incident i =
    { (n.incident i).unoccupied.releasing (releaseCount e i n) with
      state := if releaseCount e i n = 0 then .free else .releasing } := by
  rw [releaseIncident_eq]
  split
  · rw [incident_enterFree e (releaseEntered_canonical e i h), if_pos rfl, releaseEntered_incident e i h]
    rfl
  · rw [releaseEntered_incident e i h]
    rfl

end

/-- Settles O32: the request check by check, the let-go valve and the cleared claims case by case, the entry into FREE by its record and
its raise, and the release step by step. -/
theorem releaseLeavesNoClaim : Obligations.ReleaseLeavesNoClaim := by
  refine ⟨fun s w w0 w1 w2 ready live => ?_, fun e owner v n => ?_, fun p n h => ?_, fun e i n h => ?_, fun e i n h => ?_,
    fun e i n h => ?_⟩
  · have handed : judgeControl s.env 6 w0 w1 w2 s.net = requestRelease s.env w0.toNat s.net :=
      judgeControl_handed s.env (q := .release) rfl w0 w1 w2 (.inr live)
    refine ⟨fun hi standing held => congrArg _ (controlWrite_accepted ready w 6 (handed.trans ?_)),
      fun settled hi => congrArg _ (controlWrite_refused ready settled w 6 _ _ (handed.trans ?_)),
      fun settled hi state => congrArg _ (controlWrite_refused ready settled w 6 _ _ (handed.trans ?_))⟩
    · exact requestRelease_taken _ hi standing held
    · exact requestRelease_badId _ hi
    · exact requestRelease_wrongState _ hi state
  · exact ⟨opensOnLoss_iff n v, fun opens => if_pos ((opensOnLoss_iff n v).2 opens),
      fun stays => if_neg (mt (opensOnLoss_iff n v).1 stays)⟩
  · intro t kept
    have keeps : ∀ o, (o.filter fun w => !p w) = kept o := filter_unmet p
    exact ⟨fun k => (node_clearOwners h p k).trans (congrArg (fun o => { n.node k with owner := o }) (keeps _)),
      fun k => (pipe_clearOwners h p k).trans (congrArg (fun o => { n.pipe k with owner := o }) (keeps _)),
      mem_clearOwners_sensors h p⟩
  · intro r t
    have raised : t.cause 6 = _ :=
      (noteIncident_cause ..).trans (cause_raise (h.setIncident i r.freed) e .freed i r.tally.detail)
    exact ⟨(incident_enterFree e h i).trans (if_pos rfl), fun j other => (incident_enterFree e h j).trans (if_neg other),
      congrArg CauseRecord.flag raised, congrArg CauseRecord.subject raised,
      (congrArg CauseRecord.detail raised).trans (congrArg (BitVec.ofNat 32) r.tally.detail_eq)⟩
  · intro r valves cleared lost unheld asked gone released
    have listed : r.boundary.map Boundary.valve = valves := List.map_flatMap
    have lost_eq : dissolve e i n = lost := (dissolve_eq e i h).trans (congrArg (loseHolders e i · cleared) listed)
    have unheld_eq : unheldValves (dissolve e i n) (r.boundary.map Boundary.valve) = unheld := by
      rw [lost_eq, listed]
      exact unheldValves_eq lost valves
    have gone_eq : valvesDropped e i n = gone := by
      unfold valvesDropped
      rw [unheld_eq, lost_eq]
    have count : releaseCount e i n = asked.length := by
      unfold releaseCount
      dsimp only
      rw [unheld_eq, lost_eq]
    have released_eq : releaseEntered e i n = released := by
      unfold releaseEntered
      rw [gone_eq, count]
      rfl
    refine ⟨count, fun noneAsked => ?_, fun someAsked => ?_⟩
    · rw [releaseIncident_eq, released_eq, if_pos (count.trans (List.length_eq_zero_iff.2 noneAsked))]
    · rw [releaseIncident_eq, released_eq, if_neg fun zero => someAsked (List.length_eq_zero_iff.1 (count.symm.trans zero))]
  · intro t r
    have record : r = _ := releaseIncident_incident e i h
    have walker : t.walker = _ := releaseIncident_walker e i h
    refine ⟨fun k o => releaseIncident_node e i h, fun k o => releaseIncident_pipe e i h, fun b => releaseIncident_unheld e i h,
      releaseIncident_jobs e i h, fun w running own => ?_, fun others => ?_,
      congrArg Incident.frames record, congrArg Incident.depth record, congrArg Incident.pendingCauses record,
      congrArg Incident.marker record, congrArg Incident.holdTimer record, congrArg Incident.holdReason record,
      congrArg Incident.reopen record, congrArg Incident.state record⟩
    · rw [walker, running, Option.map_some, if_pos own]
    · rw [walker]
      cases running : n.walker with
      | none => rfl
      | some w => rw [Option.map_some, if_neg (others w running)]

end Sys2Proof.Machine
end
